-- ==== Sys2Proof/Word.lean ====
section
/-! DEFINITION. The word types of the DS384 and the numbers of its slots and nodes (spec/00 Capacities and ranges). -/

namespace Sys2Proof

/-- A byte of a host field or of a line frame. -/
abbrev Byte := BitVec 8

/-- A level, a cycle number, a report value (spec/00: 0 to 65535). -/
abbrev Word16 := BitVec 16

/-- A node identity (spec/00: 64 bits). -/
abbrev Identity := BitVec 64

/-- A host address (spec/00: 13 bits). -/
abbrev HostAddr := BitVec 13

/-- A directory slot, 0 to 383 (R1). -/
abbrev SlotNo := Fin 384

/-- The place of a node entry in the node table: address `a`, 1 to 239, has place `a - 1` (spec/03). -/
abbrev NodeNo := Fin 239

/-- Applies `f` to every element of a vector. Structural on the element list, so that the kernel evaluates it. -/
def mapAll {α β : Type} {n : Nat} (f : α → β) (v : Vector α n) : Vector β n :=
  ⟨⟨v.toList.map f⟩, by simp⟩

@[simp] theorem getElem_mapAll {α β : Type} {n : Nat} (f : α → β) (v : Vector α n) (i : Nat) (h : i < n) :
    (mapAll f v)[i] = f v[i] := by
  simp [mapAll]

end Sys2Proof
end

