-- ==== Sys2Proof/Syntax.lean ====
section
/-! DEFINITION. The operations and events of the DS384: one constructor for each row of spec/opcode_table.json, with the operands the rules give it. -/

namespace Sys2Proof

/-- One byte arriving on LRX: its value, and whether its stop bit was not found (R104). -/
structure LineByte where
  value : Byte
  framingFault : Bool
  deriving DecidableEq, Repr

/-- R23: the contents of a valid POLL. `reportSeq` is passed whether or not a report is present (R158). -/
structure PollFrame where
  address : Byte
  channel : BitVec 4
  echoSeq : Bool
  reportSeq : Bool
  report : Option Word16
  status : Option Byte
  deriving DecidableEq, Repr

/-- R107: the five kinds that the part itself sends and ignores when received (R110). -/
inductive AnswerKind where
  | level | wait | halt | refuse | assign
  deriving DecidableEq, Repr

/-- Why a received frame is damaged: the checks of R109 in their order, and a start marker that cuts the frame short (R108). -/
inductive DamageCause where
  | faultNoted | tooShort | crcFailed | unknownKind | pollLength | announceLength | beaconLength | cutShort
  deriving DecidableEq, Repr

/-- The operations and events. The host commands carry no operand: they read the command argument and the window (R133, R157). A field write carries the bytes written, the lowest address first. -/
inductive Instr where
  | lookup
  | readSlot
  | insert
  | amend
  | retire
  | find
  | findVisit
  | readNode
  | offer
  | retireNode
  | cascadeVisit
  | load
  | schedule
  | unschedule
  | abort
  | badCommand (code : Byte)
  | poll (frame : PollFrame)
  | announce (body : List Byte)
  | beacon (number : Word16)
  | ignoredAnswerKind (kind : AnswerKind)
  | damagedFrame (cause : DamageCause)
  | lineSilence
  | collision
  | answerGapExpiry
  | levelSendCompletion
  | answerSendCompletion
  | assignSendCompletion
  | beaconSendCompletion
  | cycleTimerExpiry
  | beaconDeadlineExpiry
  | runSetSource
  | runSetFollower
  | runClearSource
  | runClearFollower
  | cyclePeriodWrite (value : Byte)
  | lineRateWrite (value : Byte)
  | answerGapWrite (value : Byte)
  | answerRangeWrite (low high : Byte)
  | eventRegisterWrite (value : Word16)
  | eventMaskWrite (value : Word16)
  | interfaceErrorFlagsWrite (value : Word16)
  | interfaceControlWrite (value : Byte)
  | softResetRequest (value : Byte)
  | loopLengthWrite (value : Byte)
  | crcEnablePairWrite (value : Byte)
  | registerWrite (address : HostAddr) (bytes : List Byte) (crc : Byte)
  | takeFieldLatch
  | takeFieldCompletion
  | damagedCountReadLatch
  | damagedCountReadCompletion
  | instructionPhase (sdi : List Byte)
  | csnRise (tail : List Bool)
  | powerOnReset (straps : BitVec 2)
  | resetPinAssert
  | resetPinRelease (straps : BitVec 2)
  | startUpClearCompletion
  | startMarker (following : List LineByte)
  | cycleControlWrite (value : Byte)
  deriving DecidableEq, Repr

end Sys2Proof
end

