-- ==== Sys2Proof/Decode.lean ====
section
/-! DEFINITION. The operations of spec/opcode_table.json have no words: no row gives bits, so no word spells an operation. -/

namespace Sys2Proof

/-- The operation that a word spells by the table's bits: none, since the table gives no row any. -/
def decodeTableWord (_nbits _w : Nat) : Option Instr := none

end Sys2Proof
end

