-- ==== Sys2Proof/Machine/Bytes.lean ====
section
/-! DEFINITION. Bytes, marks and byte order of host fields and line frames (spec/10), the CRC-16 of line frames (R106) and the CRC-8 of the host port (R151). -/

namespace Sys2Proof.Machine

/-- A byte from its marks, bit 0 first (spec/10: bit 0 is the least-significant bit). -/
def marks (bits : List Bool) : Byte :=
  bits.foldr (fun b acc => (acc <<< 1) ||| (if b then 1 else 0)) 0

/-- A field whose value is a natural number, as 16 bits. -/
def word16 (n : Nat) : Word16 := BitVec.ofNat 16 n

/-- The low byte of a 16-bit value. -/
def lowByte (w : Word16) : Byte := w.extractLsb' 0 8

/-- The high byte of a 16-bit value. -/
def highByte (w : Word16) : Byte := w.extractLsb' 8 8

/-- The bytes of a 16-bit value, least-significant first (spec/00 Conventions). -/
def bytes16 (w : Word16) : List Byte := [lowByte w, highByte w]

/-- The 16-bit value of two bytes, least-significant first. -/
def join16 (low high : Byte) : Word16 := high ++ low

/-- Byte `i` of a 64-bit identity, counted from the least-significant. -/
def identityByte (v : Identity) (i : Nat) : Byte := v.extractLsb' (8 * i) 8

/-- The bytes of an identity, least-significant first. -/
def bytes64 (v : Identity) : List Byte :=
  [identityByte v 0, identityByte v 1, identityByte v 2, identityByte v 3,
   identityByte v 4, identityByte v 5, identityByte v 6, identityByte v 7]

/-- The identity of eight bytes, least-significant first; bytes beyond the eighth are not read. -/
def join64 : List Byte → Identity
  | [a, b, c, d, e, f, g, h] => h ++ g ++ f ++ e ++ d ++ c ++ b ++ a
  | _ => 0

/-- The bits of a byte, most-significant first: the order in which a byte enters both CRCs (R106, R151). -/
def bitsMsbFirst (b : Byte) : List Bool :=
  [b.getLsbD 7, b.getLsbD 6, b.getLsbD 5, b.getLsbD 4, b.getLsbD 3, b.getLsbD 2, b.getLsbD 1, b.getLsbD 0]

/-- R106: one bit enters the CRC-16, polynomial x^16 + x^12 + x^5 + 1. -/
def crc16Bit (crc : BitVec 16) (bit : Bool) : BitVec 16 :=
  if crc.getLsbD 15 != bit then (crc <<< 1) ^^^ 0x1021 else crc <<< 1

/-- R106: the CRC-16 of a run of bytes. -/
def crc16 (bytes : List Byte) : BitVec 16 :=
  bytes.foldl (fun crc b => (bitsMsbFirst b).foldl crc16Bit crc) 0xFFFF

/-- R151: one bit enters the CRC-8, polynomial x^8 + x^5 + x^4 + 1. -/
def crc8Bit (crc : BitVec 8) (bit : Bool) : BitVec 8 :=
  if crc.getLsbD 7 != bit then (crc <<< 1) ^^^ 0x31 else crc <<< 1

/-- R151: the CRC-8 of a run of bytes from a seed. -/
def crc8 (seed : Byte) (bytes : List Byte) : Byte :=
  bytes.foldl (fun crc b => (bitsMsbFirst b).foldl crc8Bit crc) seed

end Sys2Proof.Machine
end

