-- ==== Sys2Proof/Config.lean ====
section
/-! DEFINITION. What the part fixes: its capacities and identification (spec/00 Capacities and ranges, spec/10 Host address map). The spec leaves no value of an operation open, so no free value stands here. -/

namespace Sys2Proof.Config

/-- R78: the schedule holds at most six entries. -/
def scheduleDepth : Nat := 6

/-- R58: confirm remaining after the completion of an ASSIGN. -/
def confirmWindow : Nat := 8

/-- R111: where the damaged-frame count saturates. -/
def damagedLimit : Nat := 65535

/-- R108: the largest content of a received frame. -/
def largestContent : Nat := 80

/-- spec/10: the part number field. -/
def partNumber : Word16 := 0x0384

/-- spec/10: the revision field. -/
def revision : Byte := 0x01

end Sys2Proof.Config
end

