-- ==== Sys2Proof/Machine/Fields.lean ====
section
/-! DEFINITION. The host address map (spec/10, R144): the fields, where each lies, and which field an address belongs to. -/

namespace Sys2Proof.Machine

/-- The fields of the host address map, in its order; `unknown` is the 1-byte field of an address that belongs to no field (R144). -/
inductive Field where
  | interfaceControl | loopLength | crcEnablePair | summary | errorFlags | partNumber | revision
  | eventRegister | eventMask | attentionCount | occupancyCount
  | cycleControl | cyclePeriod | lineRate | answerGap | answerRange | cycleCounter | cycleState | damagedCount
  | commandCode | commandState | scanPosition | commandArgument | resultRecord
  | windowImage | windowIdentity | windowFirst | windowSecond
  | windowSelect | windowGroup | windowPermit | windowDemand
  | schedulePosition (p : Fin 6) | lastFired | takeField | strayCapture
  | recordImage (slot : SlotNo)
  | unknown (address : HostAddr)
  deriving DecidableEq, Repr

/-- The lowest address of a field (spec/10, Host address map). -/
def Field.base : Field → HostAddr
  | .interfaceControl => 0x0000
  | .loopLength => 0x0001
  | .crcEnablePair => 0x0002
  | .summary => 0x0003
  | .errorFlags => 0x0004
  | .partNumber => 0x0006
  | .revision => 0x0008
  | .eventRegister => 0x0010
  | .eventMask => 0x0012
  | .attentionCount => 0x0014
  | .occupancyCount => 0x0016
  | .cycleControl => 0x0020
  | .cyclePeriod => 0x0021
  | .lineRate => 0x0022
  | .answerGap => 0x0023
  | .answerRange => 0x0024
  | .cycleCounter => 0x0026
  | .cycleState => 0x0028
  | .damagedCount => 0x002A
  | .commandCode => 0x0030
  | .commandState => 0x0031
  | .scanPosition => 0x0032
  | .commandArgument => 0x0034
  | .resultRecord => 0x0038
  | .windowImage => 0x0040
  | .windowIdentity => 0x0050
  | .windowFirst => 0x0058
  | .windowSecond => 0x005A
  | .windowSelect => 0x005C
  | .windowGroup => 0x005D
  | .windowPermit => 0x005E
  | .windowDemand => 0x005F
  | .schedulePosition p => BitVec.ofNat 13 (0x0060 + 4 * p.val)
  | .lastFired => 0x0078
  | .takeField => 0x0080
  | .strayCapture => 0x0090
  | .recordImage slot => BitVec.ofNat 13 (0x0400 + 16 * slot.val)
  | .unknown a => a

/-- The length of a field in bytes (spec/10, Host address map). -/
def Field.length : Field → Nat
  | .interfaceControl | .loopLength | .crcEnablePair | .summary | .revision => 1
  | .errorFlags | .partNumber => 2
  | .eventRegister | .eventMask | .attentionCount | .occupancyCount => 2
  | .cycleControl | .cyclePeriod | .lineRate | .answerGap | .cycleState => 1
  | .answerRange | .cycleCounter | .damagedCount => 2
  | .commandCode | .commandState => 1
  | .scanPosition => 2
  | .commandArgument => 4
  | .resultRecord => 8
  | .windowImage => 16
  | .windowIdentity => 8
  | .windowFirst | .windowSecond => 2
  | .windowSelect | .windowGroup | .windowPermit | .windowDemand => 1
  | .schedulePosition _ => 4
  | .lastFired => 8
  | .takeField => 4
  | .strayCapture => 16
  | .recordImage _ => 16
  | .unknown _ => 1

/-- R144: the access types RO and RA refuse a write with READ-ONLY WRITE. The CRC enable pair is written only by an access that starts at it (R150). -/
def Field.readOnly : Field → Bool
  | .summary | .partNumber | .revision | .attentionCount | .occupancyCount | .cycleCounter | .cycleState
  | .damagedCount | .commandState | .scanPosition | .resultRecord | .windowImage | .schedulePosition _
  | .lastFired | .takeField | .strayCapture | .recordImage _ => true
  | .interfaceControl | .loopLength | .crcEnablePair | .errorFlags | .eventRegister | .eventMask
  | .cycleControl | .cyclePeriod | .lineRate | .answerGap | .answerRange | .commandCode | .commandArgument
  | .windowIdentity | .windowFirst | .windowSecond | .windowSelect | .windowGroup | .windowPermit
  | .windowDemand | .unknown _ => false

/-- The fields of the register part of the map, below the mapped directory, without the schedule view. -/
def registerFields : List Field :=
  [.interfaceControl, .loopLength, .crcEnablePair, .summary, .errorFlags, .partNumber, .revision,
   .eventRegister, .eventMask, .attentionCount, .occupancyCount,
   .cycleControl, .cyclePeriod, .lineRate, .answerGap, .answerRange, .cycleCounter, .cycleState, .damagedCount,
   .commandCode, .commandState, .scanPosition, .commandArgument, .resultRecord]
  ++ [.windowImage, .windowIdentity, .windowFirst, .windowSecond,
   .windowSelect, .windowGroup, .windowPermit, .windowDemand,
   .schedulePosition 0, .schedulePosition 1, .schedulePosition 2,
   .schedulePosition 3, .schedulePosition 4, .schedulePosition 5, .lastFired, .takeField, .strayCapture]

/-- Whether the field holds the byte at an address. -/
def Field.holds (f : Field) (a : HostAddr) : Bool :=
  f.base.toNat ≤ a.toNat && a.toNat < f.base.toNat + f.length

/-- R144: the field an address belongs to. -/
def fieldAt (a : HostAddr) : Field :=
  if h : 0x0400 ≤ a.toNat ∧ a.toNat < 0x1C00 then
    .recordImage ⟨(a.toNat - 0x0400) / 16, by omega⟩
  else
    match registerFields.find? (·.holds a) with
    | some f => f
    | none => .unknown a

/-- R142: the shared interface block is 0x0000 to 0x000F. -/
def sharedAddr (a : HostAddr) : Bool := a.toNat ≤ 0x000F

end Sys2Proof.Machine
end

