-- ==== Sys2Proof/Machine/State.lean ====
section
/-! DEFINITION. The state of the DS384 as plain data, block by block, and its values after reset. -/

namespace Sys2Proof.Machine

/-! ## The channel directory (spec/01) -/

/-- R4, R119: the attention reasons of a record. -/
structure RecordReasons where
  delivered : Bool
  reported : Bool
  pendingPoll : Bool
  deriving DecidableEq, Repr

/-- The empty set of record reasons. -/
def RecordReasons.none : RecordReasons := ⟨false, false, false⟩

/-- R47, R119: the attention reasons of a node. -/
structure NodeReasons where
  bound : Bool
  silent : Bool
  returned : Bool
  offerExpired : Bool
  unconfirmed : Bool
  status : Bool
  announced : Bool
  deriving DecidableEq, Repr

/-- The empty set of node reasons. -/
def NodeReasons.none : NodeReasons := ⟨false, false, false, false, false, false, false⟩

/-- The pair of node address and channel that names a record (spec/00 Terms). -/
structure Key where
  node : NodeNo
  channel : BitVec 4
  deriving DecidableEq, Repr

/-- R4: the fields of a record. A seq of `true` is 1. -/
structure Record where
  node : NodeNo
  channel : BitVec 4
  generation : Byte
  group : BitVec 3
  reportPermitted : Bool
  liveLevel : Option Word16
  liveSeq : Bool
  sent : Bool
  delivered : Bool
  stagedLevel : Option Word16
  halted : Bool
  reportValue : Option Word16
  reportSeq : Bool
  lastPollCycle : Option Word16
  reasons : RecordReasons
  deriving DecidableEq, Repr

/-- R1, R2: a slot keeps its generation whether it is occupied or empty. -/
structure Slot where
  generation : Byte
  record : Option Record
  deriving DecidableEq, Repr

/-- R3: one entry of the key index. -/
structure IndexEntry where
  key : Key
  slot : SlotNo
  deriving DecidableEq, Repr

/-- R1 to R3: the slots, the key index and the occupancy count. -/
structure Directory where
  slots : Vector Slot 384
  index : List IndexEntry
  occupancy : Nat
  deriving DecidableEq, Repr

/-! ## The node table (spec/03) -/

/-- R47: the state of a node entry. -/
inductive NodeState where
  | free | offered | assigned | bound | silent | retiring
  deriving DecidableEq, Repr

/-- R47: the fields of a node entry. -/
structure NodeEntry where
  state : NodeState
  identity : Option Identity
  offerRemaining : Option Nat
  confirmRemaining : Nat
  silence : Nat
  lapseLimit : Byte
  status : Option Byte
  recordCount : Nat
  reasons : NodeReasons
  deriving DecidableEq, Repr

/-- R47: a node entry after any reset, which is also the entry of a FREE address (R50). -/
def NodeEntry.reset : NodeEntry :=
  { state := .free, identity := none, offerRemaining := none, confirmRemaining := 0, silence := 0,
    lapseLimit := 0, status := none, recordCount := 0, reasons := .none }

/-! ## The load unit (spec/04) -/

/-- R78: one entry of the load schedule. -/
structure ScheduleEntry where
  target : Word16
  mask : Byte
  deriving DecidableEq, Repr

/-- R86: the last-fired record. -/
structure LastFired where
  target : Word16
  mask : Byte
  count : Nat
  deriving DecidableEq, Repr

/-! ## The cycle unit (spec/05) -/

/-- R88: the mode of the cycle unit. -/
inductive CycleMode where
  | source | follower
  deriving DecidableEq, Repr

/-- R88: the cycle state. -/
inductive CycleState where
  | stopped | running | clashed | seeking | locked | coasting
  deriving DecidableEq, Repr

/-- R88: the state of the cycle unit. `timer` and `deadline` are absent while stopped, and hold the length in microseconds with which the running interval began (R90, R98). -/
structure CycleUnit where
  mode : CycleMode
  run : Bool
  period : Byte
  counter : Word16
  state : CycleState
  timer : Option Nat
  deadline : Option Nat
  deriving DecidableEq, Repr

/-! ## The line controller (spec/06) -/

/-- R31: why a POLL is refused. -/
inductive RefuseReason where
  | noNode | noChannel | nodeRetiring
  deriving DecidableEq, Repr

/-- R39: an answer, with the contents fixed at the take. -/
inductive Answer where
  | level (key : Key) (slot : SlotNo) (generation : Byte) (seq : Bool) (level : Word16) (reportTaken : Bool)
  | wait (key : Key) (slot : SlotNo) (generation : Byte) (reportTaken : Bool)
  | halt (key : Key) (slot : SlotNo) (generation : Byte) (reportTaken : Bool)
  | refuse (key : Key) (reason : RefuseReason)
  | assign (node : NodeNo) (identity : Identity)
  deriving DecidableEq, Repr

/-- R39, R18: the answer in flight, and whether the removal of its record has voided it. -/
structure InFlight where
  answer : Answer
  voided : Bool
  deriving DecidableEq, Repr

/-- R108: a fault noted against the frame being received. -/
inductive LineFault where
  | escape | framing | overrun
  deriving DecidableEq, Repr

/-- R108: the frame being received. `escaped` is set between an escape and the byte after it. R104: the frame keeps the rate it began with. -/
structure Reception where
  content : List Byte
  escaped : Bool
  fault : Option LineFault
  rate : BitVec 2
  deriving DecidableEq, Repr

/-- R114: the two claims on the line. -/
inductive Claim where
  | answer | beacon
  deriving DecidableEq, Repr

/-- The state of the line controller (spec/06). A gap holds its length in byte times and its line rate (R116, R104); a frame being sent holds its bytes on the line, its rate, and whether the byte at the place of the part's own start marker has been read back (R113; log 22). -/
inductive LineState where
  | listen
  | receiving (frame : Reception)
  | gap (claim : Claim) (length : Nat) (rate : BitVec 2)
  | sending (claim : Claim) (wire : List Byte) (rate : BitVec 2) (echoed : Bool)
  deriving DecidableEq, Repr

/-- R111: the read latch of the damaged-frame count, with the damage counted since. -/
structure DamagedLatch where
  latched : Nat
  since : Nat
  deriving DecidableEq, Repr

/-- The state of the line controller and its settings (spec/06). -/
structure LineController where
  state : LineState
  answer : Option InFlight
  beacon : Option Word16
  held : Option Word16
  rate : BitVec 2
  gap : Byte
  rangeLow : Byte
  rangeHigh : Byte
  damaged : Nat
  damagedLatch : Option DamagedLatch
  deriving DecidableEq, Repr

/-! ## Attention list, events and the stray capture (spec/07) -/

/-- R119: a subject of the attention list. -/
inductive Subject where
  | record (slot : SlotNo)
  | node (node : NodeNo)
  deriving DecidableEq, Repr

/-- R122: the take latch. `gone` marks that the latched subject has been retired since the latch (R125), so that a new subject of the same name is told apart. -/
inductive TakeLatch where
  | noSubject
  | record (slot : SlotNo) (generation : Byte) (latched since : RecordReasons) (gone : Bool)
  | node (node : NodeNo) (latched since : NodeReasons) (gone : Bool)
  deriving DecidableEq, Repr

/-- R127: the latched events. The level events ATTENTION and INTERFACE follow their conditions and are computed. -/
structure Events where
  done : Bool
  loadFired : Bool
  stray : Bool
  damage : Bool
  cycle : Bool
  wake : Bool
  resetNoted : Bool
  deriving DecidableEq, Repr

/-- R131: the kind of a stray. -/
inductive StrayKind where
  | none | noNode | noChannel | nodeRetiring | announceUnclaimed
  deriving DecidableEq, Repr

/-- R131: the stray capture. -/
structure Stray where
  kind : StrayKind
  address : Byte
  channel : Option (BitVec 4)
  identity : Option Identity
  deriving DecidableEq, Repr

/-! ## The command unit (spec/08) -/

/-- R135, spec/10: the result codes. -/
inductive ResultCode where
  | done | notFound | emptySlot | stale | keyInUse | directoryFull | noNode | nodeRetiring | outOfRange
  | addressInUse | identityInUse | badIdentity | badArgument | scheduleFull | pastDue | none | aborted
  | idle | badCommand
  deriving DecidableEq, Repr

/-- R132: the result record. -/
structure CommandResult where
  code : ResultCode
  slot : Nat
  generation : Byte
  count : Nat
  deriving DecidableEq, Repr

/-- R132, R138: IDLE, or BUSY with a FIND and the slots it has visited, or BUSY with a cascade, the node it retires and the records it has removed. -/
inductive CommandState where
  | idle
  | finding (visited : Nat)
  | cascading (node : NodeNo) (removed : Nat)
  deriving DecidableEq, Repr

/-- R132, spec/10: the argument part of the window. -/
structure WindowArguments where
  identity : Identity
  first : Word16
  second : Word16
  select : Byte
  group : Byte
  permit : Byte
  demand : Byte
  deriving DecidableEq, Repr

/-- R132: the state of the command unit. -/
structure CommandUnit where
  state : CommandState
  code : Byte
  argument : BitVec 32
  image : Vector Byte 16
  window : WindowArguments
  result : CommandResult
  scan : SlotNo
  deriving DecidableEq, Repr

/-! ## The host serial port (spec/09) -/

/-- R149: the access mode. -/
inductive AccessMode where
  | streaming | singleField
  deriving DecidableEq, Repr

/-- R149: the direction of transfer. -/
inductive Direction where
  | ascending | descending
  deriving DecidableEq, Repr

/-- R149: the interface configuration. The two request marks always read 0 and are not held. -/
structure InterfaceConfig where
  mode : AccessMode
  direction : Direction
  statusSend : Bool
  keepLoop : Bool
  deriving DecidableEq, Repr

/-- R152: the interface error flags. -/
structure ErrorFlags where
  unknownAddress : Bool
  partialField : Bool
  readOnlyWrite : Bool
  crcMismatch : Bool
  bitCount : Bool
  notReady : Bool
  windowLocked : Bool
  commandRefused : Bool
  settingRefused : Bool
  deriving DecidableEq, Repr

/-- R153: the two status bytes, captured at the start of an instruction phase. The first has five bits. -/
structure StatusBytes where
  first : BitVec 5
  second : Byte
  deriving DecidableEq, Repr

/-- R144, R145: the field in transfer. `left` bytes are still to come; `latch` holds what a read has yet to send and `crossed` what has crossed the port, each in the order of transfer. `lowest` is the lowest address of the bytes transferred (R151). -/
structure Transfer where
  field : Field
  middle : Bool
  lowest : HostAddr
  left : Nat
  latch : List Byte
  crossed : List Byte
  deriving DecidableEq, Repr

/-- The access in progress (spec/09, state of the port), with the settings it began with (R149). `taken` is clear for an access that another part takes and whose bytes are followed only to find the next instruction phase (R148); `loopWritten` is set once it has written the loop length (R147); `alone` marks an access that a row of one field made in a frame of its own (log 4). -/
structure Access where
  taken : Bool
  isRead : Bool
  sharedOnly : Bool
  start : HostAddr
  addr : HostAddr
  count : Nat
  mode : AccessMode
  direction : Direction
  loop : Nat
  keepLoop : Bool
  duringClear : Bool
  loopWritten : Bool
  alone : Bool
  transfer : Option Transfer
  deriving DecidableEq, Repr

/-- Where the port stands in a frame: CSN high; between two accesses of a single-field frame, where the next byte begins an instruction phase (R148); an instruction phase with the bytes received and the status captured at its start; the host CRC byte after it, with whether the phase began during the start-up clear (R155); a data phase; the CRC byte after a field; or the rest of a frame that is disregarded, with the access that was taken, if one was. -/
inductive PortPhase where
  | idle
  | between
  | instruction (first : Option Byte) (status : StatusBytes)
  | hostCrc (first second : Byte) (duringClear : Bool)
  | data (access : Access)
  | fieldCrc (access : Access) (transfer : Transfer)
  | disregard (access : Option Access)
  deriving DecidableEq, Repr

/-- What SDO carried while one byte was clocked (R142, R153): nothing driven, the five status bits of the first instruction byte, or a byte. -/
inductive Sdo where
  | highZ
  | status (bits : BitVec 5)
  | byte (value : Byte)
  deriving DecidableEq, Repr

/-- The state of the host serial port (spec/09). `frameCrc` is the CRC setting of the frame in progress (R150), `sdo` what SDO carried in the present frame, one entry a byte. -/
structure HostPort where
  config : InterfaceConfig
  loopLength : Byte
  crcOn : Bool
  frameCrc : Bool
  errors : ErrorFlags
  chipCode : BitVec 2
  phase : PortPhase
  softReset : Bool
  sdo : List Sdo
  deriving DecidableEq, Repr

/-! ## The whole part -/

/-- The state of the part, and the queue of the operations that wait. `clearing` is set during the start-up clear (R155), `resetHeld` while RSTN is low (R154). -/
structure State where
  directory : Directory
  nodes : Vector NodeEntry 239
  schedule : List ScheduleEntry
  lastFired : LastFired
  cycle : CycleUnit
  line : LineController
  attention : List Subject
  take : Option TakeLatch
  events : Events
  mask : BitVec 9
  stray : Stray
  command : CommandUnit
  port : HostPort
  clearing : Bool
  resetHeld : Bool
  pending : List Instr
  deriving DecidableEq, Repr

/-- The faults of the machine: none. The spec gives every operation an effect in every state and names no condition that stops the part, so nothing raises a fault. -/
inductive Fault where
  deriving DecidableEq, Repr

/-- The refusals of the machine. -/
inductive Refusal where
  /-- Raised by an arm of exec whose operation has no meaning yet: safe, since nothing can be proved of it. No arm raises it. -/
  | notModelled (mnemonic : String)
  deriving DecidableEq, Repr

/-! ## Reset values -/

/-- R1 to R3. -/
def Directory.reset : Directory :=
  { slots := Vector.replicate 384 ⟨0, none⟩, index := [], occupancy := 0 }

/-- R88. -/
def CycleUnit.reset : CycleUnit :=
  { mode := .source, run := false, period := 20, counter := 0, state := .stopped, timer := none, deadline := none }

/-- R104, R111, R116 to R118. -/
def LineController.reset : LineController :=
  { state := .listen, answer := none, beacon := none, held := none, rate := 1, gap := 3, rangeLow := 1,
    rangeHigh := 239, damaged := 0, damagedLatch := none }

/-- R127. -/
def Events.reset : Events := ⟨false, false, false, false, false, false, false⟩

/-- R129: the mask enables RESET NOTED alone. -/
def maskReset : BitVec 9 := 0x100

/-- R131. -/
def Stray.reset : Stray := ⟨.none, 0, none, none⟩

/-- R132. -/
def CommandUnit.reset : CommandUnit :=
  { state := .idle, code := 0, argument := 0, image := Vector.replicate 16 0,
    window := ⟨0, 0, 0, 0, 0, 0, 0⟩, result := ⟨.done, 0, 0, 0⟩, scan := 0 }

/-- R152: every reset clears the flags. -/
def ErrorFlags.reset : ErrorFlags := ⟨false, false, false, false, false, false, false, false, false⟩

/-- R147, R149, R150, R152 after power-on. The chip code is the straps' sample (R142); State.reset takes 0, DESIGN CHOICE (log 1, unsafe). -/
def HostPort.reset : HostPort :=
  { config := ⟨.streaming, .ascending, false, false⟩, loopLength := 0, crcOn := false,
    frameCrc := false, errors := .reset, chipCode := 0, phase := .idle, softReset := false, sdo := [] }

/-- The part right after a power-on reset: every block at its reset values, the start-up clear in progress (R154, R155; DEDUCED, log 18), nothing waiting. -/
def State.reset : State :=
  { directory := .reset
    nodes := Vector.replicate 239 .reset
    schedule := []
    lastFired := ⟨0, 0, 0⟩
    cycle := .reset
    line := .reset
    attention := []
    take := none
    events := .reset
    mask := maskReset
    stray := .reset
    command := .reset
    port := .reset
    clearing := true
    resetHeld := false
    pending := [] }

end Sys2Proof.Machine
end

