-- ==== Sys2Proof/Machine/Ops.lean ====
section
/-! DEFINITION. The named operations over the state that the operations of the part share: slots and node entries, events and flags, attention reasons, removal of a record, the node table's return to FREE, the reset of the blocks. -/

namespace Sys2Proof.Machine

/-! ## Addresses and entries -/

/-- The node entry's place for an address 1 to 239; no place for 0 and 240 to 255 (spec/00 Capacities). -/
def nodeNo? (address : Byte) : Option NodeNo :=
  if h : 1 ≤ address.toNat ∧ address.toNat ≤ 239 then some ⟨address.toNat - 1, by omega⟩ else none

/-- The address of a node entry. -/
def nodeAddress (n : NodeNo) : Nat := n.val + 1

/-- The address of a node entry as a byte. -/
def addressByte (n : NodeNo) : Byte := BitVec.ofNat 8 (nodeAddress n)

def State.slot (s : State) (i : SlotNo) : Slot := s.directory.slots[i.val]

def State.node (s : State) (n : NodeNo) : NodeEntry := s.nodes[n.val]

def State.setSlot (s : State) (i : SlotNo) (x : Slot) : State :=
  { s with directory := { s.directory with slots := s.directory.slots.set i.val x } }

def State.setNode (s : State) (n : NodeNo) (e : NodeEntry) : State :=
  { s with nodes := s.nodes.set n.val e }

/-- Writes the record of an occupied slot; the slot keeps its generation. -/
def State.setRecord (s : State) (i : SlotNo) (r : Record) : State :=
  s.setSlot i { s.slot i with record := some r }

def Record.key (r : Record) : Key := ⟨r.node, r.channel⟩

/-- R3: the lookup of a key through the key index, with the record it finds. -/
def State.lookupKey (s : State) (k : Key) : Option (SlotNo × Record) :=
  match s.directory.index.find? (·.key == k) with
  | none => none
  | some e =>
    match (s.slot e.slot).record with
    | none => none
    | some r => some (e.slot, r)

/-- R13: the lowest-numbered empty slot. -/
def State.lowestEmpty (s : State) : Option SlotNo :=
  (List.finRange 384).find? (fun i => (s.slot i).record.isNone)

/-! ## Events and interface errors -/

/-- R127: the latched events by name. -/
inductive LatchedEvent where
  | done | loadFired | stray | damage | cycle | wake | resetNoted
  deriving DecidableEq, Repr

/-- R127: a latched event is set at the event that raises it. -/
def Events.raise (e : Events) : LatchedEvent → Events
  | .done => { e with done := true }
  | .loadFired => { e with loadFired := true }
  | .stray => { e with stray := true }
  | .damage => { e with damage := true }
  | .cycle => { e with cycle := true }
  | .wake => { e with wake := true }
  | .resetNoted => { e with resetNoted := true }

def State.raise (s : State) (v : LatchedEvent) : State := { s with events := s.events.raise v }

/-- R152: the interface error flags by name. -/
inductive ErrorFlag where
  | unknownAddress | partialField | readOnlyWrite | crcMismatch | bitCount | notReady | windowLocked
  | commandRefused | settingRefused
  deriving DecidableEq, Repr

/-- R152: a flag is set at its event and stays set. -/
def ErrorFlags.set (f : ErrorFlags) : ErrorFlag → ErrorFlags
  | .unknownAddress => { f with unknownAddress := true }
  | .partialField => { f with partialField := true }
  | .readOnlyWrite => { f with readOnlyWrite := true }
  | .crcMismatch => { f with crcMismatch := true }
  | .bitCount => { f with bitCount := true }
  | .notReady => { f with notReady := true }
  | .windowLocked => { f with windowLocked := true }
  | .commandRefused => { f with commandRefused := true }
  | .settingRefused => { f with settingRefused := true }

def State.flag (s : State) (f : ErrorFlag) : State :=
  { s with port := { s.port with errors := s.port.errors.set f } }

/-- Sets a flag when a condition holds. -/
def State.flagIf (s : State) (c : Bool) (f : ErrorFlag) : State := if c then s.flag f else s

/-! ## Attention reasons (R119 to R125) -/

def RecordReasons.union (a b : RecordReasons) : RecordReasons :=
  ⟨a.delivered || b.delivered, a.reported || b.reported, a.pendingPoll || b.pendingPoll⟩

/-- The reasons of `a` that are not in `b`. -/
def RecordReasons.minus (a b : RecordReasons) : RecordReasons :=
  ⟨a.delivered && !b.delivered, a.reported && !b.reported, a.pendingPoll && !b.pendingPoll⟩

def RecordReasons.isEmpty (a : RecordReasons) : Bool := !(a.delivered || a.reported || a.pendingPoll)

def NodeReasons.union (a b : NodeReasons) : NodeReasons :=
  ⟨a.bound || b.bound, a.silent || b.silent, a.returned || b.returned, a.offerExpired || b.offerExpired,
   a.unconfirmed || b.unconfirmed, a.status || b.status, a.announced || b.announced⟩

/-- The reasons of `a` that are not in `b`. -/
def NodeReasons.minus (a b : NodeReasons) : NodeReasons :=
  ⟨a.bound && !b.bound, a.silent && !b.silent, a.returned && !b.returned, a.offerExpired && !b.offerExpired,
   a.unconfirmed && !b.unconfirmed, a.status && !b.status, a.announced && !b.announced⟩

def NodeReasons.isEmpty (a : NodeReasons) : Bool :=
  !(a.bound || a.silent || a.returned || a.offerExpired || a.unconfirmed || a.status || a.announced)

/-- R122: a reason raised for the latched subject is also recorded against the take in progress. -/
def TakeLatch.noteRecord (i : SlotNo) (r : RecordReasons) : TakeLatch → TakeLatch
  | .record j g latched since gone =>
    if i = j ∧ gone = false then .record j g latched (since.union r) gone else .record j g latched since gone
  | t => t

/-- R122, for a node subject. -/
def TakeLatch.noteNode (n : NodeNo) (r : NodeReasons) : TakeLatch → TakeLatch
  | .node m latched since gone =>
    if n = m ∧ gone = false then .node m latched (since.union r) gone else .node m latched since gone
  | t => t

/-- R125: the take latch after the subject it may hold is retired. -/
def TakeLatch.retire (x : Subject) : TakeLatch → TakeLatch
  | .record j g latched since gone => .record j g latched since (gone || (x == .record j))
  | .node m latched since gone => .node m latched since (gone || (x == .node m))
  | .noSubject => .noSubject

/-- R120: a subject whose set was empty is appended at the tail. -/
def joinAttention (list : List Subject) (wasEmpty : Bool) (x : Subject) : List Subject :=
  if wasEmpty then list ++ [x] else list

/-- R120, R122: reasons raised at one event for the record in a slot. Raising none changes nothing; a slot without a record has no subject (R18). -/
def State.raiseRecord (s : State) (i : SlotNo) (r : RecordReasons) : State :=
  match (s.slot i).record with
  | none => s
  | some x =>
    if r.isEmpty then s
    else
      { s.setRecord i { x with reasons := x.reasons.union r } with
        attention := joinAttention s.attention x.reasons.isEmpty (.record i)
        take := s.take.map (·.noteRecord i r) }

/-- R120, R122: reasons raised at one event for a node. -/
def State.raiseNode (s : State) (n : NodeNo) (r : NodeReasons) : State :=
  if r.isEmpty then s
  else
    { s.setNode n { s.node n with reasons := (s.node n).reasons.union r } with
      attention := joinAttention s.attention (s.node n).reasons.isEmpty (.node n)
      take := s.take.map (·.noteNode n r) }

/-- R125: a subject leaves the list wherever it stands, and the take latch learns of it. -/
def State.retireSubject (s : State) (x : Subject) : State :=
  { s with attention := s.attention.filter (· != x), take := s.take.map (·.retire x) }

/-- R121: the attention count. -/
def State.attentionCount (s : State) : Nat := s.attention.length

/-! ## Records and node entries that come and go -/

/-- R39: the slot of the record an answer was built from. -/
def Answer.slot? : Answer → Option SlotNo
  | .level _ i _ _ _ _ => some i
  | .wait _ i _ _ => some i
  | .halt _ i _ _ => some i
  | .refuse _ _ => none
  | .assign _ _ => none

/-- R18: the removal of the record in a slot voids the answer in flight built from it. An answer that names the slot and was built from an earlier occupant is void already (log 25). -/
def InFlight.voidBy (i : SlotNo) (a : InFlight) : InFlight :=
  { a with voided := a.voided || (a.answer.slot? == some i) }

/-- R18: removal of a record as one event. An empty slot has nothing to remove. -/
def State.removeRecord (s : State) (i : SlotNo) : State :=
  match (s.slot i).record with
  | none => s
  | some r =>
    let s1 := s.setSlot i { s.slot i with record := none }
    let s2 := s1.setNode r.node { s1.node r.node with recordCount := (s1.node r.node).recordCount - 1 }
    let s3 := s2.retireSubject (.record i)
    { s3 with
      directory := { s3.directory with
        index := s3.directory.index.filter (·.key != r.key)
        occupancy := s3.directory.occupancy - 1 }
      line := { s3.line with answer := s3.line.answer.map (·.voidBy i) } }

/-- R50: a node entry returns to FREE with its reset values, and its subject leaves the attention list. -/
def State.freeNode (s : State) (n : NodeNo) : State :=
  (s.setNode n .reset).retireSubject (.node n)

/-- R70, R69: whether a RETIRING entry has lost its last record. -/
def State.lastRecordGone (s : State) (n : NodeNo) : Bool :=
  (s.node n).state == .retiring && (s.node n).recordCount == 0

/-! ## The stray capture -/

/-- R31, R56, R131: a stray replaces the one held, and STRAY is raised. -/
def State.captureStray (s : State) (x : Stray) : State := { s with stray := x }.raise .stray

/-! ## Reset -/

/-- R154: at a reset event each block takes its values after reset, and the start-up clear begins. The host serial port's values are given by the kind of reset; the waiting operations are not the part's. -/
def State.resetWith (s : State) (port : HostPort) : State :=
  { State.reset with port := port, pending := s.pending }

/-- R154: while RSTN is held low nothing reaches the part. -/
def unlessHeld (f : State → State) (s : State) : State := if s.resetHeld then s else f s

end Sys2Proof.Machine
end

