-- ==== Sys2Proof/Machine/Flags.lean ====
section
/-! DEFINITION. Every mark the part computes: the level events, the event register, IRQN, the interface error field, the cycle class, the summary and the status bytes (R127 to R130, R152, R153). -/

namespace Sys2Proof.Machine

/-- R127: any interface error flag is set. -/
def ErrorFlags.any (f : ErrorFlags) : Bool :=
  f.unknownAddress || f.partialField || f.readOnlyWrite || f.crcMismatch || f.bitCount || f.notReady
    || f.windowLocked || f.commandRefused || f.settingRefused

/-- spec/10: the interface error flags as their 2-byte field. -/
def ErrorFlags.bits (f : ErrorFlags) : Word16 :=
  marks [f.settingRefused] ++
    marks [f.unknownAddress, f.partialField, f.readOnlyWrite, f.crcMismatch, f.bitCount, f.notReady,
      f.windowLocked, f.commandRefused]

/-- R152: each flag whose mark in the written value is 1 is cleared. -/
def ErrorFlags.clear (f : ErrorFlags) (w : Word16) : ErrorFlags :=
  { unknownAddress := f.unknownAddress && !w.getLsbD 0
    partialField := f.partialField && !w.getLsbD 1
    readOnlyWrite := f.readOnlyWrite && !w.getLsbD 2
    crcMismatch := f.crcMismatch && !w.getLsbD 3
    bitCount := f.bitCount && !w.getLsbD 4
    notReady := f.notReady && !w.getLsbD 5
    windowLocked := f.windowLocked && !w.getLsbD 6
    commandRefused := f.commandRefused && !w.getLsbD 7
    settingRefused := f.settingRefused && !w.getLsbD 8 }

/-- R121: ATTENTION is set while the count is above 0. R130: it is clear while the RESET pin is held low. -/
def State.attentionEvent (s : State) : Bool := !s.attention.isEmpty && !s.resetHeld

/-- R127: INTERFACE is set while any interface error flag is. -/
def State.interfaceEvent (s : State) : Bool := s.port.errors.any

/-- spec/10: the nine events in the order of their marks. -/
def State.eventMarks (s : State) : List Bool :=
  [s.events.done, s.attentionEvent, s.events.loadFired, s.events.stray, s.events.damage, s.events.cycle,
   s.events.wake, s.interfaceEvent, s.events.resetNoted]

/-- The event register as its 2-byte field. -/
def State.eventBits (s : State) : Word16 :=
  marks [s.events.resetNoted] ++
    marks [s.events.done, s.attentionEvent, s.events.loadFired, s.events.stray, s.events.damage,
      s.events.cycle, s.events.wake, s.interfaceEvent]

/-- R128: each latched event whose mark is 1 is cleared; a mark of a level event has no effect. -/
def Events.clear (e : Events) (w : Word16) : Events :=
  { done := e.done && !w.getLsbD 0
    loadFired := e.loadFired && !w.getLsbD 2
    stray := e.stray && !w.getLsbD 3
    damage := e.damage && !w.getLsbD 4
    cycle := e.cycle && !w.getLsbD 5
    wake := e.wake && !w.getLsbD 6
    resetNoted := e.resetNoted && !w.getLsbD 8 }

/-- R129: at least one event is set, enabled or not. -/
def State.anyEvent (s : State) : Bool := s.eventMarks.any id

/-- R129, R130: IRQN is asserted while an event is both set and enabled, and released while RSTN is held low and through the start-up clear. -/
def State.irqAsserted (s : State) : Bool :=
  !s.resetHeld && !s.clearing && (s.eventBits &&& (s.mask.setWidth 16)) != 0

/-- R103: the cycle class. -/
def CycleState.class : CycleState → BitVec 2
  | .stopped => 0
  | .seeking => 1
  | .clashed => 1
  | .coasting => 2
  | .running => 3
  | .locked => 3

/-- R132: whether the command state is BUSY. -/
def CommandState.busy : CommandState → Bool
  | .idle => false
  | .finding _ => true
  | .cascading _ _ => true

/-- R153: the five marks of the first status byte, bits 4 to 0 of the summary. -/
def State.summaryLow (s : State) : List Bool :=
  [s.clearing, s.command.state.busy, s.attentionEvent, s.anyEvent, s.port.errors.any]

/-- R153, spec/10: the summary. -/
def State.summary (s : State) : Byte :=
  marks (s.summaryLow ++ [s.cycle.state.class.getLsbD 0, s.cycle.state.class.getLsbD 1])

/-- R153: the two status bytes as they stand at the start of an instruction phase. -/
def State.statusBytes (s : State) : StatusBytes :=
  ⟨(marks s.summaryLow).extractLsb' 0 5, lowByte s.cycle.counter⟩

/-- R112: the driver enable LDE is asserted while the controller is SENDING. -/
def State.driverEnabled (s : State) : Bool :=
  match s.line.state with
  | .sending _ _ _ _ => true
  | .listen => false
  | .receiving _ => false
  | .gap _ _ _ => false

end Sys2Proof.Machine
end

