-- ==== Sys2Proof/Machine/Operands.lean ====
section
/-! DEFINITION. The arguments that the commands decode from the command argument and the window (R157, spec/10), and the images and codes in which the part shows its records, node entries, schedule and captures (R6, R7, R54, R86, R122, R131, spec/10). -/

namespace Sys2Proof.Machine

/-! ## Command arguments (spec/10, Command arguments) -/

/-- Byte `i` of the command argument. -/
def CommandUnit.argByte (c : CommandUnit) (i : Nat) : Byte := c.argument.extractLsb' (8 * i) 8

/-- Bytes 0 and 1 of the command argument, a slot or a target. -/
def CommandUnit.argWord (c : CommandUnit) : Word16 := c.argument.extractLsb' 0 16

/-- R157: a slot from 384 to 65535 is out of range. -/
def slotNo? (w : Word16) : Option SlotNo := if h : w.toNat < 384 then some ⟨w.toNat, h⟩ else none

/-- R10: a channel outside 0 to 15 is refused. -/
def channel? (b : Byte) : Option (BitVec 4) := if b.toNat < 16 then some (b.setWidth 4) else none

/-- R12, R14: a group outside 0 to 7 is refused. -/
def group? (b : Byte) : Option (BitVec 3) := if b.toNat < 8 then some (b.setWidth 3) else none

/-- R157: 0 is no, 1 is yes, and any other value is not a valid yes or no. -/
def yesNo? (b : Byte) : Option Bool := if b = 0 then some false else if b = 1 then some true else none

/-- R10, R12: the key that bytes 0 and 1 of the command argument carry, when both are in range. -/
def CommandUnit.argKey (c : CommandUnit) : Option Key :=
  match nodeNo? (c.argByte 0), channel? (c.argByte 1) with
  | some n, some ch => some ⟨n, ch⟩
  | _, _ => none

/-- R71: whether a group mask names a group. -/
def maskNames (mask : Byte) (group : BitVec 3) : Bool := mask.getLsbD group.toNat

/-- spec/00 Conventions: a target is ahead of the counter when the forward distance lies in 1 to 32767. -/
def ahead (target counter : Word16) : Bool :=
  1 ≤ (target - counter).toNat && (target - counter).toNat ≤ 32767

/-! ## The record image (R6, R7) -/

/-- R6: the states of a record. -/
inductive RecordState where
  | pending | live | halted
  deriving DecidableEq, Repr

/-- R6: the derived state. -/
def Record.state (r : Record) : RecordState :=
  if r.halted then .halted else if r.liveLevel.isSome then .live else .pending

/-- spec/10: bits 1 and 2 of byte 0 of the record image. -/
def RecordState.codeBits : RecordState → List Bool
  | .pending => [false, false]
  | .live => [true, false]
  | .halted => [false, true]

/-- spec/10: the image of an occupied slot. -/
def Record.image (r : Record) : Vector Byte 16 :=
  let live := r.liveLevel.getD 0
  let staged := r.stagedLevel.getD 0
  let report := r.reportValue.getD 0
  let last := r.lastPollCycle.getD 0
  #v[marks ([true] ++ r.state.codeBits ++ [r.liveSeq, r.sent, r.delivered, r.halted, r.reportSeq]),
     addressByte r.node,
     (BitVec.ofBool r.reportPermitted) ++ r.group ++ r.channel,
     r.generation,
     marks [r.liveLevel.isSome, r.stagedLevel.isSome, r.reportValue.isSome, r.lastPollCycle.isSome,
       r.reasons.delivered, r.reasons.reported, r.reasons.pendingPoll],
     0,
     lowByte live, highByte live,
     lowByte staged, highByte staged,
     lowByte report, highByte report,
     lowByte last, highByte last,
     0, 0]

/-- R7: the image of an empty slot carries the slot's generation and nothing else. -/
def emptySlotImage (generation : Byte) : Vector Byte 16 :=
  #v[0, 0, 0, generation, 0, 0, 0, 0, 0, 0, 0, 0, 0, 0, 0, 0]

/-- R7: the image of a slot. -/
def Slot.image (x : Slot) : Vector Byte 16 :=
  match x.record with
  | some r => r.image
  | none => emptySlotImage x.generation

/-! ## The node image (R54) -/

/-- spec/10: the code of a node state. -/
def NodeState.code : NodeState → BitVec 3
  | .free => 0
  | .offered => 1
  | .assigned => 2
  | .bound => 3
  | .silent => 4
  | .retiring => 5

/-- spec/10: the marks of the seven node reasons. -/
def NodeReasons.bits (r : NodeReasons) : Byte :=
  marks [r.bound, r.silent, r.returned, r.offerExpired, r.unconfirmed, r.status, r.announced]

/-- spec/10: the marks of the three record reasons. -/
def RecordReasons.bits (r : RecordReasons) : Byte := marks [r.delivered, r.reported, r.pendingPoll]

/-- spec/10: the node image. -/
def NodeEntry.image (e : NodeEntry) : Vector Byte 16 :=
  let counts : Word16 := BitVec.ofNat 4 e.confirmRemaining ++ BitVec.ofNat 12 (e.offerRemaining.getD 0)
  let id := e.identity.getD 0
  #v[(BitVec.ofNat 3 0) ++ (BitVec.ofBool e.status.isSome) ++ (BitVec.ofBool e.offerRemaining.isSome) ++ e.state.code,
     e.reasons.bits,
     e.status.getD 0,
     BitVec.ofNat 8 e.recordCount,
     lowByte counts, highByte counts,
     BitVec.ofNat 8 e.silence,
     e.lapseLimit,
     identityByte id 0, identityByte id 1, identityByte id 2, identityByte id 3,
     identityByte id 4, identityByte id 5, identityByte id 6, identityByte id 7]

/-! ## The other images (spec/10) -/

/-- R86: a position of the schedule view; a position at or above the number of entries reads 0. -/
def State.schedulePosition (s : State) (p : Nat) : List Byte :=
  match s.schedule[p]? with
  | some e => bytes16 e.target ++ [e.mask, 0]
  | none => [0, 0, 0, 0]

/-- R86: the last-fired record. -/
def LastFired.bytes (l : LastFired) : List Byte :=
  bytes16 l.target ++ [l.mask, 0] ++ bytes16 (word16 l.count) ++ [0, 0]

/-- R122: the four bytes of the take field; all 0 when no subject is latched. -/
def takeBytes : Option TakeLatch → List Byte
  | some (.record i g latched _ _) =>
    [1, lowByte (word16 i.val), g, latched.bits ||| (if i.val ≥ 256 then 0x80 else 0)]
  | some (.node n latched _ _) => [2, addressByte n, 0, latched.bits]
  | some .noSubject => [0, 0, 0, 0]
  | none => [0, 0, 0, 0]

/-- spec/10: the code of a stray's kind. -/
def StrayKind.code : StrayKind → Byte
  | .none => 0
  | .noNode => 1
  | .noChannel => 2
  | .nodeRetiring => 3
  | .announceUnclaimed => 4

/-- R131: the stray capture. -/
def Stray.bytes (x : Stray) : List Byte :=
  [x.kind.code, x.address, (x.channel.getD 0).setWidth 8, marks [x.channel.isSome, x.identity.isSome],
   0, 0, 0, 0] ++ bytes64 (x.identity.getD 0)

/-- spec/10: the code of a result. -/
def ResultCode.code : ResultCode → Byte
  | .done => 0x00
  | .notFound => 0x01
  | .emptySlot => 0x02
  | .stale => 0x03
  | .keyInUse => 0x04
  | .directoryFull => 0x05
  | .noNode => 0x06
  | .nodeRetiring => 0x07
  | .outOfRange => 0x08
  | .addressInUse => 0x09
  | .identityInUse => 0x0A
  | .badIdentity => 0x0B
  | .badArgument => 0x0C
  | .scheduleFull => 0x0D
  | .pastDue => 0x0E
  | .none => 0x0F
  | .aborted => 0x10
  | .idle => 0x11
  | .badCommand => 0x12

/-- spec/10: the result record. -/
def CommandResult.bytes (r : CommandResult) : List Byte :=
  [r.code.code, r.generation] ++ bytes16 (word16 r.slot) ++ bytes16 (word16 r.count) ++ [0, 0]

/-- spec/10: the code of the cycle state. -/
def CycleState.code : CycleState → Byte
  | .stopped => 0
  | .running => 1
  | .clashed => 2
  | .seeking => 3
  | .locked => 4
  | .coasting => 5

end Sys2Proof.Machine
end

