-- ==== Sys2Proof/Machine/Attention.lean ====
section
/-! DEFINITION. The reads that act: the take field and the damaged-frame count, latched at their first byte and acting at their last (spec/07 R122 to R126, spec/06 R111). -/

namespace Sys2Proof.Machine

/-- R122: what the take latch holds of the subject at the head. -/
def State.latchOf (s : State) : Subject → TakeLatch
  | .record i =>
    match (s.slot i).record with
    | some r => .record i r.generation r.reasons .none false
    | none => .record i (s.slot i).generation .none .none false
  | .node n => .node n (s.node n).reasons .none false

/-- R122: the first byte of a take field read. -/
def State.latchTake (s : State) : State :=
  { s with take := some (match s.attention with
    | [] => .noSubject
    | x :: _ => s.latchOf x) }

/-- R123: a subject with reasons left moves to the tail; one without leaves the list. -/
def requeue (list : List Subject) (x : Subject) (left : Bool) : List Subject :=
  if left then list.filter (· != x) ++ [x] else list.filter (· != x)

/-- R123: the last byte of a take field read: the latched reasons are removed, those raised since are kept. A subject that is off the list is left alone (R125). -/
def State.completeTake (s : State) : State :=
  match s.take with
  | none => s
  | some .noSubject => { s with take := none }
  | some (.record i _ latched since gone) =>
    match (s.slot i).record with
    | some r =>
      if gone = false ∧ s.attention.contains (.record i) then
        let rest := r.reasons.minus (latched.minus since)
        { s.setRecord i { r with reasons := rest } with
          take := none
          attention := requeue s.attention (.record i) (!rest.isEmpty) }
      else { s with take := none }
    | none => { s with take := none }
  | some (.node n latched since gone) =>
    if gone = false ∧ s.attention.contains (.node n) then
      let rest := (s.node n).reasons.minus (latched.minus since)
      { s.setNode n { s.node n with reasons := rest } with
        take := none
        attention := requeue s.attention (.node n) (!rest.isEmpty) }
    else { s with take := none }

def State.setDamagedLatch (s : State) (d : Option DamagedLatch) : State :=
  { s with line := { s.line with damagedLatch := d } }

/-- R111: the first byte of a read of the damaged-frame count. -/
def State.latchDamaged (s : State) : State := s.setDamagedLatch (some ⟨s.line.damaged, 0⟩)

/-- R111: at the last byte the count takes the damage counted since the latch. -/
def State.completeDamaged (s : State) : State :=
  match s.line.damagedLatch with
  | none => s
  | some d => { s with line := { s.line with damaged := d.since, damagedLatch := none } }

/-- R124, R111, R145: a read that is cut removes nothing; its latch is discarded. -/
def State.dropLatches (s : State) : State := { s.setDamagedLatch none with take := none }

end Sys2Proof.Machine
end

