-- ==== Sys2Proof/Machine/Counting.lean ====
section
/-! DEFINITION. The node table's counting at a cycle start (spec/03, R62 to R65). -/

namespace Sys2Proof.Machine

/-- R62: whether this cycle start ends the offer lifetime. -/
def NodeEntry.offerEnds (e : NodeEntry) : Bool :=
  e.state == .offered && (match e.offerRemaining with
    | some k => k ≤ 1
    | none => false)

/-- R63: whether this cycle start ends the confirm window. -/
def NodeEntry.confirmEnds (e : NodeEntry) : Bool :=
  e.state == .assigned && e.confirmRemaining ≤ 1

/-- R64: the silence count after a cycle start. -/
def NodeEntry.raisedSilence (e : NodeEntry) : Nat := min (e.silence + 1) 255

/-- R64: whether this cycle start brings the silence count of a BOUND entry to a lapse limit that is not 0. -/
def NodeEntry.lapses (e : NodeEntry) : Bool :=
  e.state == .bound && e.lapseLimit != 0 && e.raisedSilence == e.lapseLimit.toNat

/-- R62 to R65: a node entry's counts and state after a cycle start, its reasons left as they were. -/
def NodeEntry.counted (e : NodeEntry) : NodeEntry :=
  match e.state with
  | .free => e
  | .retiring => e
  | .offered =>
    { e with offerRemaining := if e.offerEnds then none else e.offerRemaining.map (· - 1) }
  | .assigned =>
    { e with
      confirmRemaining := e.confirmRemaining - 1
      state := if e.confirmEnds then .offered else .assigned }
  | .bound => { e with silence := e.raisedSilence, state := if e.lapses then .silent else .bound }
  | .silent => { e with silence := e.raisedSilence }

/-- R62 to R64: the reasons a cycle start raises for a node. -/
def NodeEntry.cycleReasons (e : NodeEntry) : NodeReasons :=
  { NodeReasons.none with
    offerExpired := e.offerEnds
    unconfirmed := e.confirmEnds
    silent := e.lapses }

/-- R65: a node entry after a cycle start. -/
def NodeEntry.cycleStart (e : NodeEntry) : NodeEntry :=
  { e.counted with reasons := e.reasons.union e.cycleReasons }

/-- R120: whether a cycle start brings the node onto the attention list. -/
def NodeEntry.joinsAtCycle (e : NodeEntry) : Bool := e.reasons.isEmpty && !e.cycleReasons.isEmpty

/-- R65: the nodes that a cycle start brings onto the attention list, in ascending order of address. -/
def State.cycleJoiners (s : State) : List Subject :=
  ((List.finRange 239).filter (fun n => (s.node n).joinsAtCycle)).map .node

/-- R122: the reasons of this cycle start are recorded against a take of one of the nodes. -/
def State.noteCycle (s : State) : TakeLatch → TakeLatch
  | .node n latched since gone =>
    if gone then .node n latched since gone
    else .node n latched (since.union (s.node n).cycleReasons) gone
  | .record i g latched since gone => .record i g latched since gone
  | .noSubject => .noSubject

/-- R65: the node table's reaction to one cycle start, on all entries together. -/
def State.countNodes (s : State) : State :=
  { s with
    nodes := mapAll NodeEntry.cycleStart s.nodes
    attention := s.attention ++ s.cycleJoiners
    take := s.take.map s.noteCycle }

end Sys2Proof.Machine
end

