-- ==== Sys2Proof/Machine/Frames.lean ====
section
/-! DEFINITION. Line frames: markers, escapes, the CRC-16, the frames the part builds, and the judgement of a frame received (spec/06 R104 to R109, spec/10 Line frames, R158). -/

namespace Sys2Proof.Machine

/-- R105. -/
def startMarkerByte : Byte := 0xF9

/-- R105. -/
def endMarkerByte : Byte := 0xFA

/-- R105. -/
def escapeByte : Byte := 0xFB

/-- R105: a content byte from 0xF9 to 0xFB is sent as the escape and the byte XOR 0x10. -/
def escapeContent (b : Byte) : List Byte :=
  if b = 0xF9 ∨ b = 0xFA ∨ b = 0xFB then [escapeByte, b ^^^ 0x10] else [b]

/-- R105: the byte that an escape and the byte after it stand for. -/
def unescape? (b : Byte) : Option Byte :=
  if b = 0xE9 ∨ b = 0xEA ∨ b = 0xEB then some (b ^^^ 0x10) else none

/-- R106: the content of a frame with its CRC, low byte first. -/
def withCrc (bytes : List Byte) : List Byte := bytes ++ bytes16 (crc16 bytes)

/-- R105: a frame of this content as it stands on the line. -/
def wireFrame (content : List Byte) : List Byte :=
  startMarkerByte :: content.flatMap escapeContent ++ [endMarkerByte]

/-- spec/10: the control byte of the answers. -/
def answerControl (channel : BitVec 4) (seq reportTaken : Bool) : Byte :=
  (BitVec.ofNat 2 0) ++ (BitVec.ofBool reportTaken) ++ (BitVec.ofBool seq) ++ channel

/-- spec/10: the reason byte of REFUSE. -/
def RefuseReason.code : RefuseReason → Byte
  | .noNode => 1
  | .noChannel => 2
  | .nodeRetiring => 3

/-- R107, R158: the content of an answer, without its CRC. -/
def Answer.body : Answer → List Byte
  | .level k _ _ seq value taken => [0x61, addressByte k.node, answerControl k.channel seq taken] ++ bytes16 value
  | .wait k _ _ taken => [0x62, addressByte k.node, answerControl k.channel false taken]
  | .halt k _ _ taken => [0x63, addressByte k.node, answerControl k.channel false taken]
  | .refuse k reason => [0x64, addressByte k.node, k.channel.setWidth 8, reason.code]
  | .assign n identity => [0x65, addressByte n] ++ bytes64 identity

/-- R112, R158: an answer on the line. -/
def Answer.wire (a : Answer) : List Byte := wireFrame (withCrc a.body)

/-- R107: the content of a BEACON, without its CRC. -/
def beaconBody (number : Word16) : List Byte := 0x40 :: bytes16 number

/-- R114, R158: a BEACON on the line. -/
def beaconWire (number : Word16) : List Byte := wireFrame (withCrc (beaconBody number))

/-! ## Frames from others -/

/-- spec/10: the control byte of a POLL. -/
def pollControl (p : PollFrame) : Byte :=
  (BitVec.ofBool p.status.isSome) ++ (BitVec.ofBool p.reportSeq) ++ (BitVec.ofBool p.report.isSome)
    ++ (BitVec.ofBool p.echoSeq) ++ p.channel

/-- R107: the content of a POLL, without its CRC: the report value before the status byte. -/
def pollBody (p : PollFrame) : List Byte :=
  [0x21, p.address, pollControl p]
    ++ (match p.report with
        | some v => bytes16 v
        | none => [])
    ++ (match p.status with
        | some v => [v]
        | none => [])

/-- R107: the content of an ANNOUNCE, without its CRC. -/
def announceContent (body : List Byte) : List Byte := [0x2A, 0, BitVec.ofNat 8 body.length] ++ body

/-- A valid frame, as R110 passes it on. -/
inductive ValidFrame where
  | poll (frame : PollFrame)
  | announce (body : List Byte)
  | beacon (number : Word16)
  | answerKind (kind : AnswerKind)
  deriving DecidableEq, Repr

/-- The judgement of a received frame (R109). -/
inductive Judgement where
  | damaged (cause : DamageCause)
  | valid (frame : ValidFrame)
  deriving DecidableEq, Repr

/-- R109 check 5: a POLL of the content without its CRC. The length is judged from bits 5 and 7 of the control byte (R158). -/
def judgePoll : List Byte → Judgement
  | 0x21 :: address :: control :: rest =>
    let frame : Option Word16 → Option Byte → Judgement := fun report status =>
      .valid (.poll ⟨address, control.extractLsb' 0 4, control.getLsbD 4, control.getLsbD 6, report, status⟩)
    match control.getLsbD 5, control.getLsbD 7, rest with
    | false, false, [] => frame none none
    | true, false, [lo, hi] => frame (some (join16 lo hi)) none
    | false, true, [st] => frame none (some st)
    | true, true, [lo, hi, st] => frame (some (join16 lo hi)) (some st)
    | _, _, _ => .damaged .pollLength
  | _ => .damaged .pollLength

/-- R109 check 6: an ANNOUNCE of the content without its CRC. -/
def judgeAnnounce : List Byte → Judgement
  | 0x2A :: address :: length :: body =>
    if address = 0 ∧ 12 ≤ length.toNat ∧ length.toNat ≤ 64 ∧ body.length = length.toNat then
      .valid (.announce body)
    else .damaged .announceLength
  | _ => .damaged .announceLength

/-- R109 check 7: a BEACON of the content without its CRC. -/
def judgeBeacon : List Byte → Judgement
  | [0x40, low, high] => .valid (.beacon (join16 low high))
  | _ => .damaged .beaconLength

/-- R109 checks 4 to 7, on the content without its CRC. -/
def judgeKind (body : List Byte) : Judgement :=
  match body with
  | [] => .damaged .tooShort
  | kind :: _ =>
    if kind = 0x21 then judgePoll body
    else if kind = 0x2A then judgeAnnounce body
    else if kind = 0x40 then judgeBeacon body
    else if kind = 0x61 then .valid (.answerKind .level)
    else if kind = 0x62 then .valid (.answerKind .wait)
    else if kind = 0x63 then .valid (.answerKind .halt)
    else if kind = 0x64 then .valid (.answerKind .refuse)
    else if kind = 0x65 then .valid (.answerKind .assign)
    else .damaged .unknownKind

/-- R106: the content before its last two bytes, and the value in those. -/
def splitCrc (content : List Byte) : List Byte × List Byte :=
  (content.take (content.length - 2), content.drop (content.length - 2))

/-- R109: the judgement of a frame at its end marker, the checks in their order. -/
def judgeFrame (content : List Byte) (fault : Option LineFault) : Judgement :=
  if fault.isSome then .damaged .faultNoted
  else if content.length < 3 then .damaged .tooShort
  else if bytes16 (crc16 (splitCrc content).1) ≠ (splitCrc content).2 then .damaged .crcFailed
  else judgeKind (splitCrc content).1

/-- R108: the frame at its start marker: empty content, no fault noted. -/
def Reception.begin (rate : BitVec 2) : Reception := ⟨[], false, none, rate⟩

/-- R108: a byte added to the content; the 81st is an overrun. -/
def Reception.add (r : Reception) (b : Byte) : Reception :=
  if r.content.length < Config.largestContent then { r with content := r.content ++ [b], escaped := false }
  else { r with fault := some .overrun, escaped := false }

/-- R108: a byte of a frame that is not a marker. From the first fault noted, further bytes are disregarded. A byte with a framing fault is no marker, whatever its value (DEDUCED, log 7). -/
def Reception.byte (r : Reception) (b : LineByte) : Reception :=
  if r.fault.isSome then r
  else if b.framingFault then { r with fault := some .framing }
  else if r.escaped then
    match unescape? b.value with
    | some v => r.add v
    | none => { r with fault := some .escape, escaped := false }
  else if b.value = escapeByte then { r with escaped := true }
  else r.add b.value

/-- R105: a frame that ends between an escape and the byte after it has an escape fault. -/
def Reception.endFault (r : Reception) : Option LineFault :=
  match r.fault with
  | some f => some f
  | none => if r.escaped then some .escape else none

end Sys2Proof.Machine
end

