-- ==== Sys2Proof/Machine/Line.lean ====
section
/-! DEFINITION. The line controller: gaps, sending, send completions, beacons pending and held, damage and collisions (spec/06 R110 to R115, spec/05 R94). -/

namespace Sys2Proof.Machine

def State.setLine (s : State) (l : LineController) : State := { s with line := l }

/-- R112, R114, R116: a claim is taken and the controller enters GAP, with the gap and the rate in force. -/
def State.enterGap (s : State) (claim : Claim) : State :=
  s.setLine { s.line with state := .gap claim s.line.gap.toNat s.line.rate }

/-- R39, R112: an answer is handed to the line controller as the answer in flight. -/
def State.handOver (s : State) (a : Answer) : State :=
  (s.setLine { s.line with answer := some ⟨a, false⟩ }).enterGap .answer

/-- R114: a pending beacon is taken from LISTEN. -/
def State.takeBeacon (s : State) : State :=
  match s.line.state, s.line.beacon with
  | .listen, some _ => s.enterGap .beacon
  | _, _ => s

/-- The controller in LISTEN. -/
def State.toListen (s : State) : State := s.setLine { s.line with state := .listen }

/-- R110, R114: the end of a frame that yields no answer; a pending beacon is taken at that event. -/
def State.endWithoutAnswer (s : State) : State := s.toListen.takeBeacon

/-- R94, R114: a beacon request: held while a beacon is SENDING, otherwise the pending beacon or its newer number, taken at once from LISTEN. A second request while one is held replaces it (DEDUCED, log 14). -/
def State.requestBeacon (s : State) (number : Word16) : State :=
  match s.line.state with
  | .sending .beacon _ _ _ => s.setLine { s.line with held := some number }
  | _ => (s.setLine { s.line with beacon := some number }).takeBeacon

/-- R115: a pending beacon is cancelled by a clash and by clearing RUN; one being sent goes on, a held request is cancelled. -/
def State.cancelBeacon (s : State) : State :=
  match s.line.state with
  | .sending .beacon _ _ _ => s.setLine { s.line with held := none }
  | .gap .beacon _ _ => s.setLine { s.line with state := .listen, beacon := none, held := none }
  | _ => s.setLine { s.line with beacon := none, held := none }

/-- R111: the damaged-frame count saturates; damage is also counted against a read of the count in progress. -/
def DamagedLatch.count (d : DamagedLatch) : DamagedLatch := { d with since := min (d.since + 1) Config.damagedLimit }

/-- R111: damage, or a collision, is counted and raises DAMAGE. -/
def State.countDamage (s : State) : State :=
  (s.setLine { s.line with
    damaged := min (s.line.damaged + 1) Config.damagedLimit
    damagedLatch := s.line.damagedLatch.map (·.count) }).raise .damage

/-- R118: whether the line controller receives: not during the start-up clear, nor while RSTN is low. -/
def State.receives (s : State) : Bool := !s.clearing && !s.resetHeld

/-- R108, R111: a frame ended as damaged with the controller returning to LISTEN. -/
def State.endDamaged (s : State) : State := s.countDamage.endWithoutAnswer

/-! ## The frame being received -/

/-- R108: a start marker in LISTEN or RECEIVING begins a frame with empty content and no fault. -/
def State.beginFrame (s : State) : State :=
  s.setLine { s.line with state := .receiving (Reception.begin s.line.rate) }

/-- R105: whether a byte of the content is sent escaped. -/
def isEscaped (b : Byte) : Bool := b == 0xF9 || b == 0xFA || b == 0xFB

/-- R105, R108: whether the frame in reception can be one of this content: no fault is noted, what has arrived begins it, and after an escape the next byte of the content is one that is sent escaped. -/
def Reception.begins (content : List Byte) (r : Reception) : Bool :=
  r.fault.isNone && r.content.isPrefixOf content
    && (!r.escaped || (content.drop r.content.length).head?.any isEscaped)

/-- Contents of at most 80 bytes that the frame in reception can end with, enough of them that every judgement that it can come to is the judgement of one: what has arrived with up to three bytes more, alone, with the second byte of a CRC or with a whole CRC (R106). -/
def Reception.endings (r : Reception) : List (List Byte) :=
  (([[], [0], [1], [0, 0], [0, 0, 0], [0xF9], [0xFA], [0xFB], [0xF9, 0], [0xF9, 0, 0], [0xF9, 0, 0, 0],
      [0x21], [0x2A], [0x40], [0x61], [0x62], [0x63], [0x64], [0x65]] : List (List Byte)).flatMap fun more =>
    let content := r.content ++ more
    [content, content ++ [highByte (crc16 content.dropLast)], withCrc content]).filter fun content =>
      content.length ≤ Config.largestContent && r.begins content

/-- R109: whether the frame in reception can come to this judgement at its end marker. -/
def Reception.canBe (j : Judgement) (r : Reception) : Bool := r.endings.any (fun content => judgeFrame content none == j)

/-- R113: a start marker from another party in GAP or SENDING is a collision. In SENDING it is read back after the place of the part's own start marker (log 22). -/
def State.collide (s : State) : State :=
  match s.line.state with
  | .gap _ _ _ => s.countDamage
  | .sending claim wire rate _ => (s.setLine { s.line with state := .sending claim wire rate true }).countDamage
  | .listen => s
  | .receiving _ => s

/-- A whole frame from another party arrives and ends (R108, R110, R113). In LISTEN it is received; in RECEIVING it is the frame in reception when `same` says that it can be, and otherwise its start marker cuts the frame in reception; in GAP and SENDING its start marker is a collision (DEDUCED, log 6). `deliver` acts with the controller in LISTEN. -/
def State.arrive (s : State) (same : Reception → Bool) (deliver : State → State) : State :=
  if s.receives then
    match s.line.state with
    | .listen => deliver s
    | .receiving r => if same r then deliver s.toListen else deliver s.countDamage.toListen
    | .gap _ _ _ => s.collide
    | .sending _ _ _ _ => s.collide
  else s

/-- Whether the frame in reception can be one that ends damaged for this cause. A fault can still be noted in any frame, and a start marker can cut any frame short; a frame with a fault noted ends for no other cause. -/
def Reception.canEndBy (cause : DamageCause) (r : Reception) : Bool :=
  cause == .faultNoted || cause == .cutShort || r.canBe (.damaged cause)

/-! ## Meanings of the line events -/

/-- LINE_SILENCE (R108): four byte times without a byte end the frame in reception as damaged. Nothing is received during the start-up clear or in reset (R118). -/
def execLineSilence (s : State) : Host.Outcome State Fault Refusal :=
  .next (if s.receives then
    match s.line.state with
    | .receiving _ => s.endDamaged
    | _ => s
  else s)

/-- COLLISION (R113, R118): a start marker from another party in GAP or SENDING. -/
def execCollision (s : State) : Host.Outcome State Fault Refusal :=
  .next (if s.receives then s.collide else s)

/-- IGNORED_ANSWER_KIND (R110): a valid frame of a kind the part sends is ignored. -/
def execIgnoredAnswerKind (kind : AnswerKind) (s : State) : Host.Outcome State Fault Refusal :=
  .next (s.arrive (Reception.canBe (.valid (.answerKind kind))) State.endWithoutAnswer)

/-- R109: a damaged frame is dropped and counted; one cut short by a start marker leaves the controller receiving the frame that the marker begins (R108). -/
def State.frameDamaged (s : State) (cause : DamageCause) : State :=
  if cause = .cutShort then s.countDamage.beginFrame else s.endDamaged

/-- DAMAGED_FRAME (R109, R111). -/
def execDamagedFrame (cause : DamageCause) (s : State) : Host.Outcome State Fault Refusal :=
  .next (s.arrive (Reception.canEndBy cause) (·.frameDamaged cause))

/-- R112, R114: the frame that the end of a gap puts on the line. -/
def State.claimedFrame (s : State) : Claim → Option (List Byte)
  | .answer => s.line.answer.map (·.answer.wire)
  | .beacon => s.line.beacon.map beaconWire

/-- ANSWER_GAP_EXPIRY (R112, R114): the controller enters SENDING, with the rate of the gap (R104). -/
def execAnswerGapExpiry (s : State) : Host.Outcome State Fault Refusal :=
  .next (unlessHeld (fun s =>
    match s.line.state with
    | .gap claim _ rate =>
      match s.claimedFrame claim with
      | some wire => s.setLine { s.line with state := .sending claim wire rate false }
      | none => s
    | _ => s) s)

/-- R112: at its send completion the answer in flight is consumed and the controller returns to LISTEN. -/
def State.consumeAnswer (s : State) : State :=
  s.setLine { s.line with state := .listen, answer := none }

/-- The answer being sent, when the controller is SENDING one and RSTN is not held low. -/
def State.answerSending (s : State) : Option InFlight :=
  if s.resetHeld then none
  else
    match s.line.state with
    | .sending .answer _ _ _ => s.line.answer
    | _ => none

/-- R41: the send completion of a LEVEL answer sets sent if the answer is not voided and the slot holds the record of the generation carried with the seq carried. -/
def State.markSent (s : State) (i : SlotNo) (generation : Byte) (seq voided : Bool) : State :=
  match (s.slot i).record with
  | none => s
  | some r =>
    if !voided && r.generation == generation && r.liveSeq == seq then s.setRecord i { r with sent := true } else s

/-- LEVEL_SEND_COMPLETION (R41). -/
def execLevelSendCompletion (s : State) : Host.Outcome State Fault Refusal :=
  .next (match s.answerSending with
    | some ⟨.level _ i generation seq _ _, voided⟩ =>
      (s.consumeAnswer.markSent i generation seq voided).takeBeacon
    | _ => s)

/-- R42: whether an answer is WAIT, HALT or REFUSE. -/
def Answer.changesNothing : Answer → Bool
  | .wait _ _ _ _ => true
  | .halt _ _ _ _ => true
  | .refuse _ _ => true
  | .level _ _ _ _ _ _ => false
  | .assign _ _ => false

/-- ANSWER_SEND_COMPLETION (R42): WAIT, HALT and REFUSE change nothing else. -/
def execAnswerSendCompletion (s : State) : Host.Outcome State Fault Refusal :=
  .next (match s.answerSending with
    | some a => if a.answer.changesNothing then s.consumeAnswer.takeBeacon else s
    | none => s)

/-- R58: whether the completion of an ASSIGN moves the entry to ASSIGNED. -/
def NodeEntry.assignable (e : NodeEntry) (identity : Identity) : Bool :=
  e.state != .free && e.state != .retiring && e.identity == some identity

/-- R58: the completion of an ASSIGN. -/
def State.completeAssign (s : State) (n : NodeNo) (identity : Identity) : State :=
  if (s.node n).assignable identity then
    s.setNode n { s.node n with state := .assigned, confirmRemaining := Config.confirmWindow, silence := 0 }
  else s

/-- ASSIGN_SEND_COMPLETION (R58). -/
def execAssignSendCompletion (s : State) : Host.Outcome State Fault Refusal :=
  .next (match s.answerSending with
    | some ⟨.assign n identity, _⟩ => (s.consumeAnswer.completeAssign n identity).takeBeacon
    | _ => s)

/-- BEACON_SEND_COMPLETION (R114, R94): the beacon is no longer pending, a held request becomes pending and is taken at once. -/
def execBeaconSendCompletion (s : State) : Host.Outcome State Fault Refusal :=
  .next (unlessHeld (fun s =>
    match s.line.state with
    | .sending .beacon _ _ _ =>
      (s.setLine { s.line with state := .listen, beacon := s.line.held, held := none }).takeBeacon
    | _ => s) s)

end Sys2Proof.Machine
end

