-- ==== Sys2Proof/Machine/Loads.lean ====
section
/-! DEFINITION. Live changes, loads and the firing of the load schedule (spec/04, R71 to R87). -/

namespace Sys2Proof.Machine

/-- R72: a live change flips the live seq once and clears sent and delivered. -/
def Record.liveChange (r : Record) : Record :=
  { r with liveSeq := !r.liveSeq, sent := false, delivered := false }

/-- R73: whether a load with this mask promotes the record. -/
def Record.promotable (mask : Byte) (r : Record) : Bool :=
  maskNames mask r.group && r.stagedLevel.isSome

/-- R73: the effect of a load on a record; a record that is not promoted is not changed. -/
def Record.load (mask : Byte) (r : Record) : Record :=
  if r.promotable mask then { r.liveChange with liveLevel := r.stagedLevel, stagedLevel := none } else r

/-- R73: the effect of a load on a slot. -/
def Slot.load (mask : Byte) (x : Slot) : Slot := { x with record := x.record.map (·.load mask) }

/-- R73: whether a load promotes the record of a slot. -/
def Slot.promotable (mask : Byte) (x : Slot) : Bool :=
  match x.record with
  | some r => r.promotable mask
  | none => false

/-- R74: the number of records a load promotes. -/
def State.loadCount (s : State) (mask : Byte) : Nat :=
  s.directory.slots.toList.countP (·.promotable mask)

/-- R74: a load is one event on every slot. -/
def State.load (s : State) (mask : Byte) : State :=
  { s with directory := { s.directory with slots := mapAll (Slot.load mask) s.directory.slots } }

/-- R82, R83: whether an entry fires at the cycle start that moves the counter from `old` to `new`: its target is `new`, or it lies in the forward interval from `old`, exclusive, to `new`, inclusive, when the forward distance of the move lies in 1 to 32767. -/
def ScheduleEntry.fires (old new : Word16) (e : ScheduleEntry) : Bool :=
  e.target == new ||
    (1 ≤ (new - old).toNat && (new - old).toNat ≤ 32767 &&
      1 ≤ (e.target - old).toNat && (e.target - old).toNat ≤ (new - old).toNat)

/-- R84: the mask of the one load that the fired entries make. -/
def unionMask (es : List ScheduleEntry) : Byte := es.foldr (fun e m => e.mask ||| m) 0

/-- R82 to R86: the load unit's reaction to a cycle start. -/
def State.fireSchedule (s : State) (old new : Word16) : State :=
  let fired := s.schedule.filter (·.fires old new)
  if fired.isEmpty then s
  else
    let mask := unionMask fired
    { s.load mask with
      schedule := s.schedule.filter (fun e => !e.fires old new)
      lastFired := ⟨new, mask, s.loadCount mask⟩ }.raise .loadFired

end Sys2Proof.Machine
end

