-- ==== Sys2Proof/Machine/Cycle.lean ====
section
/-! DEFINITION. The cycle unit: cycle starts, the source's timer and clash, the follower's beacons, misses and deadline, mode and RUN (spec/05, R88 to R103). -/

namespace Sys2Proof.Machine

def State.setCycle (s : State) (c : CycleUnit) : State := { s with cycle := c }

/-- R91, R92: a cycle start takes the counter to `new` and is handed to the node table and the load unit. -/
def State.cycleStart (s : State) (new : Word16) : State :=
  ((s.setCycle { s.cycle with counter := new }).countNodes).fireSchedule s.cycle.counter new

/-- R93: the length of a timer interval that begins now, in microseconds. -/
def CycleUnit.timerLength (c : CycleUnit) : Nat := c.period.toNat * 1000

/-- R98: the beacon deadline is the period in force plus one eighth of it, in microseconds. -/
def CycleUnit.deadlineLength (c : CycleUnit) : Nat := c.period.toNat * 1125

/-- R103: a change of the cycle state raises CYCLE. -/
def State.changeCycleState (s : State) (c : CycleState) : State :=
  (s.setCycle { s.cycle with state := c }).raise .cycle

/-- R98: the deadline restarts at every cycle start of a follower. -/
def State.restartDeadline (s : State) : State :=
  s.setCycle { s.cycle with deadline := some s.cycle.deadlineLength }

/-- R95: the clash of a source that hears another source's beacon. -/
def State.clash (s : State) : State :=
  ((s.setCycle { s.cycle with timer := none }).changeCycleState .clashed).cancelBeacon

/-- R97: the lock that ends SEEKING. -/
def State.lock (s : State) (number : Word16) : State :=
  ((s.cycleStart number).restartDeadline).changeCycleState .locked

/-- R99, R100: a beacon that carries the next number is a beacon cycle start. -/
def State.beaconStart (s : State) : State := (s.cycleStart (s.cycle.counter + 1)).restartDeadline

/-- R99: the first miss, in LOCKED, is bridged by an artificial cycle start. -/
def State.firstMiss (s : State) : State :=
  ((s.cycleStart (s.cycle.counter + 1)).restartDeadline).changeCycleState .coasting

/-- R100: the second miss, in COASTING, makes the unit SEEKING with the counter frozen and the deadline stopped. -/
def State.secondMiss (s : State) : State :=
  (s.setCycle { s.cycle with deadline := none }).changeCycleState .seeking

/-- R95, R97, R99, R100, R102: a valid BEACON at the cycle unit. -/
def State.hearBeacon (s : State) (number : Word16) : State :=
  match s.cycle.state with
  | .stopped => s
  | .running => s.clash
  | .clashed => s
  | .seeking => s.lock number
  | .locked => if number = s.cycle.counter + 1 then s.beaconStart else s.firstMiss
  | .coasting => if number = s.cycle.counter + 1 then s.beaconStart.changeCycleState .locked else s.secondMiss

/-- R110: a valid BEACON is passed to the cycle unit and yields no answer. -/
def State.dispatchBeacon (s : State) (number : Word16) : State := (s.hearBeacon number).endWithoutAnswer

/-- BEACON (R99, R110). -/
def execBeacon (number : Word16) (s : State) : Host.Outcome State Fault Refusal :=
  .next (s.arrive (Reception.begins (withCrc (beaconBody number))) (·.dispatchBeacon number))

/-- R93: an expiry of the cycle timer. -/
def State.timerExpiry (s : State) : State :=
  ((s.cycleStart (s.cycle.counter + 1)).setCycle
      { (s.cycleStart (s.cycle.counter + 1)).cycle with timer := some s.cycle.timerLength }).requestBeacon
    (s.cycle.counter + 1)

/-- CYCLE_TIMER_EXPIRY (R93). A timer that is stopped does not expire (log 3). -/
def execCycleTimerExpiry (s : State) : Host.Outcome State Fault Refusal :=
  .next (unlessHeld (fun s => if s.cycle.state = .running ∧ s.cycle.timer.isSome then s.timerExpiry else s) s)

/-- BEACON_DEADLINE_EXPIRY (R99, R100). A deadline that is stopped does not expire (R98). -/
def execBeaconDeadlineExpiry (s : State) : Host.Outcome State Fault Refusal :=
  .next (unlessHeld (fun s =>
    if s.cycle.deadline.isSome then
      match s.cycle.state with
      | .locked => s.firstMiss
      | .coasting => s.secondMiss
      | _ => s
    else s) s)

/-! ## Mode and RUN (R89) -/

/-- R93, R97: RUN is set in the mode written. -/
def State.startCycle (s : State) (mode : CycleMode) : State :=
  match mode with
  | .source =>
    (s.setCycle { s.cycle with mode := .source, run := true, timer := some s.cycle.timerLength }).changeCycleState .running
  | .follower =>
    (s.setCycle { s.cycle with mode := .follower, run := true }).changeCycleState .seeking

/-- R96, R101: RUN is cleared; the timer or the deadline stops, and a pending beacon is cancelled. -/
def State.stopCycle (s : State) : State :=
  ((s.setCycle { s.cycle with run := false, timer := none, deadline := none }).changeCycleState .stopped).cancelBeacon

/-- spec/10: the mode in bit 1 of the cycle control field. -/
def modeOf (value : Byte) : CycleMode := if value.getLsbD 1 then .follower else .source

/-- R89, R156: a write of the cycle control field, judged on bits 0 and 1. -/
def State.writeCycleControl (s : State) (value : Byte) : State :=
  if s.cycle.run then
    if modeOf value = s.cycle.mode then (if value.getLsbD 0 then s else s.stopCycle) else s.flag .settingRefused
  else if value.getLsbD 0 then s.startCycle (modeOf value)
  else s.setCycle { s.cycle with mode := modeOf value }

/-- R90: a write of the cycle period. The interval running keeps its length. -/
def State.writeCyclePeriod (s : State) (value : Byte) : State :=
  if 2 ≤ value.toNat ∧ value.toNat ≤ 200 then s.setCycle { s.cycle with period := value } else s.flag .settingRefused

end Sys2Proof.Machine
end

