-- ==== Sys2Proof/Machine/Polls.lean ====
section
/-! DEFINITION. Answering polls: the order of work of a taken POLL (spec/02, R23 to R46). -/

namespace Sys2Proof.Machine

/-- R24: the node whose POLL is taken: its address lies in the answer range and the cycle unit is not STOPPED. -/
def State.pollTarget (s : State) (address : Byte) : Option NodeNo :=
  if s.cycle.state ≠ .stopped ∧ s.line.rangeLow.toNat ≤ address.toNat ∧ address.toNat ≤ s.line.rangeHigh.toNat then
    nodeNo? address
  else none

/-- R31: the kind under which a refusal is captured. -/
def RefuseReason.strayKind : RefuseReason → StrayKind
  | .noNode => .noNode
  | .noChannel => .noChannel
  | .nodeRetiring => .nodeRetiring

/-- R26, R27, R30, R31: a refusal captures the stray and answers REFUSE. -/
def State.refusePoll (s : State) (k : Key) (reason : RefuseReason) : State :=
  (s.captureStray ⟨reason.strayKind, addressByte k.node, some k.channel, none⟩).handOver (.refuse k reason)

/-- R28: whether a POLL of the node passes the gate. -/
def NodeState.passesGate : NodeState → Bool
  | .assigned => true
  | .bound => true
  | .silent => true
  | .free => false
  | .offered => false
  | .retiring => false

/-- R29: whether a POLL carries a new or changed status byte. -/
def NodeEntry.statusChanges (e : NodeEntry) (status : Option Byte) : Bool :=
  match status with
  | none => false
  | some v => e.status != some v

/-- R28, R29: the node entry after a POLL that passes the gate, its reasons left as they were. -/
def NodeEntry.gated (e : NodeEntry) (status : Option Byte) : NodeEntry :=
  { e with
    state := .bound
    silence := 0
    confirmRemaining := if e.state = .assigned then 0 else e.confirmRemaining
    status := if status.isSome then status else e.status }

/-- R28, R29: the reasons that a POLL passing the gate raises for its node. -/
def NodeEntry.gateReasons (e : NodeEntry) (status : Option Byte) : NodeReasons :=
  { NodeReasons.none with
    bound := e.state == .assigned
    returned := e.state == .silent
    status := e.statusChanges status }

/-- R28, R29: the node gate passed. -/
def State.passGate (s : State) (n : NodeNo) (status : Option Byte) : State :=
  (s.setNode n ((s.node n).gated status)).raiseNode n ((s.node n).gateReasons status)

/-- R32: whether the echo confirms delivery. -/
def Record.confirms (r : Record) (echoSeq : Bool) : Bool :=
  r.liveLevel.isSome && r.sent && echoSeq == r.liveSeq && !r.delivered

/-- R34: whether the report of a POLL is accepted. -/
def Record.accepts (r : Record) (p : PollFrame) : Bool :=
  p.report.isSome && r.reportPermitted && (r.reportValue.isNone || p.reportSeq != r.reportSeq)

/-- R34, R35: report-taken is set for a report that is accepted or is a repeat. -/
def Record.reportTaken (r : Record) (p : PollFrame) : Bool := p.report.isSome && r.reportPermitted

/-- R32 to R38: the record after a POLL answered from it, its reasons left as they were. -/
def Record.polled (r : Record) (p : PollFrame) (counter : Word16) : Record :=
  { r with
    delivered := r.delivered || r.confirms p.echoSeq
    reportValue := if r.accepts p then p.report else r.reportValue
    reportSeq := if r.accepts p then p.reportSeq else r.reportSeq
    lastPollCycle := some counter }

/-- R37: whether the POLL is answered WAIT. -/
def Record.waits (r : Record) : Bool := !r.halted && r.liveLevel.isNone

/-- R32, R34, R37: the reasons that a POLL answered from the record raises for it. -/
def Record.pollReasons (r : Record) (p : PollFrame) : RecordReasons :=
  ⟨r.confirms p.echoSeq, r.accepts p, r.waits⟩

/-- R36, R39: the answer chosen from the record in slot `i`, with the address and channel of the POLL. -/
def Record.answer (r : Record) (k : Key) (i : SlotNo) (p : PollFrame) : Answer :=
  if r.halted then .halt k i r.generation (r.reportTaken p)
  else
    match r.liveLevel with
    | none => .wait k i r.generation (r.reportTaken p)
    | some level => .level k i r.generation r.liveSeq level (r.reportTaken p)

/-- R32 to R39: steps 4 to 8 of a POLL for key `k` whose record is in slot `i`. -/
def State.answerFrom (s : State) (k : Key) (i : SlotNo) (r : Record) (p : PollFrame) : State :=
  ((s.setRecord i (r.polled p s.cycle.counter)).raiseRecord i (r.pollReasons p)).handOver (r.answer k i p)

/-- R30 to R39: steps 3 to 8, after the gate. -/
def State.lookupPoll (s : State) (n : NodeNo) (p : PollFrame) : State :=
  match s.lookupKey ⟨n, p.channel⟩ with
  | none => s.refusePoll ⟨n, p.channel⟩ .noChannel
  | some (i, r) => s.answerFrom ⟨n, p.channel⟩ i r p

/-- R26 to R39: a POLL that is taken. -/
def State.takePoll (s : State) (n : NodeNo) (p : PollFrame) : State :=
  match (s.node n).state with
  | .free => s.refusePoll ⟨n, p.channel⟩ .noNode
  | .offered => s.refusePoll ⟨n, p.channel⟩ .noNode
  | .retiring => s.refusePoll ⟨n, p.channel⟩ .nodeRetiring
  | .assigned => (s.passGate n p.status).lookupPoll n p
  | .bound => (s.passGate n p.status).lookupPoll n p
  | .silent => (s.passGate n p.status).lookupPoll n p

/-- R24, R110: a valid POLL at the poll responder; an ignored one yields no answer. -/
def State.dispatchPoll (s : State) (p : PollFrame) : State :=
  match s.pollTarget p.address with
  | none => s.endWithoutAnswer
  | some n => s.takePoll n p

/-- POLL (R24, R110). -/
def execPoll (p : PollFrame) (s : State) : Host.Outcome State Fault Refusal :=
  .next (s.arrive (Reception.begins (withCrc (pollBody p))) (·.dispatchPoll p))

end Sys2Proof.Machine
end

