-- ==== Sys2Proof/Machine/Announces.lean ====
section
/-! DEFINITION. Announces (spec/03, R55 to R61), and the receiver that turns the bytes of the line into frames and passes them on (spec/06, R108 to R110, R113). -/

namespace Sys2Proof.Machine

/-- R55: the all-zero and all-ones values are not identities. -/
def validIdentity (v : Identity) : Bool := v != 0 && v != BitVec.allOnes 64

/-- R55: the identity whose pattern starts at the first of these bytes: three bytes 0x96 and four copies of one value. -/
def patternHere (bytes : List Byte) : Option Identity :=
  if bytes.length < 35 then none
  else
    let copy := (bytes.drop 3).take 8
    if bytes.take 3 = [0x96, 0x96, 0x96] ∧ (bytes.drop 11).take 8 = copy ∧ (bytes.drop 19).take 8 = copy
        ∧ (bytes.drop 27).take 8 = copy ∧ validIdentity (join64 copy) then
      some (join64 copy)
    else none

/-- R55: the search of the body, position by position from the first byte. -/
def searchIdentity : List Byte → Option Identity
  | [] => none
  | b :: rest =>
    match patternHere (b :: rest) with
    | some v => some v
    | none => searchIdentity rest

/-- R56: the states whose identity an announce is compared with. -/
def NodeState.announces : NodeState → Bool
  | .offered => true
  | .assigned => true
  | .bound => true
  | .silent => true
  | .free => false
  | .retiring => false

/-- R56: the entry that an announced identity matches. -/
def State.announced (s : State) (identity : Identity) : Option NodeNo :=
  (List.finRange 239).find? (fun n => (s.node n).state.announces && (s.node n).identity == some identity)

/-- The reason ANNOUNCED alone. -/
def announcedReason : NodeReasons := { NodeReasons.none with announced := true }

/-- R57: whether taking an ASSIGN raises ANNOUNCED: not for an OFFERED entry. -/
def NodeState.reannounces : NodeState → Bool
  | .assigned => true
  | .bound => true
  | .silent => true
  | .free => false
  | .offered => false
  | .retiring => false

/-- R57: a matching announce is taken; the ASSIGN becomes the answer in flight. -/
def State.takeAnnounce (s : State) (n : NodeNo) (identity : Identity) : State :=
  (if (s.node n).state.reannounces then s.raiseNode n announcedReason else s).handOver (.assign n identity)

/-- R60: a matching announce while parked. -/
def State.wakeBy (s : State) (n : NodeNo) : State := ((s.raiseNode n announcedReason).raise .wake).endWithoutAnswer

/-- R56: an unclaimed announce. -/
def State.unclaimed (s : State) (identity : Identity) : State :=
  (s.captureStray ⟨.announceUnclaimed, 0, none, some identity⟩).endWithoutAnswer

/-- R55 to R60, R110: a valid ANNOUNCE at the node table. -/
def State.dispatchAnnounce (s : State) (body : List Byte) : State :=
  match searchIdentity body with
  | none => s.endWithoutAnswer
  | some identity =>
    match s.announced identity, s.cycle.state with
    | some n, .stopped => s.wakeBy n
    | none, .stopped => s.endWithoutAnswer
    | some n, _ => s.takeAnnounce n identity
    | none, _ => s.unclaimed identity

/-- ANNOUNCE (R55, R110). A body outside 12 to 64 bytes fails check 6 of R109 and is damaged. -/
def execAnnounce (body : List Byte) (s : State) : Host.Outcome State Fault Refusal :=
  .next (s.arrive (Reception.begins (withCrc (announceContent body))) (fun s =>
    if 12 ≤ body.length ∧ body.length ≤ 64 then s.dispatchAnnounce body else s.frameDamaged .announceLength))

/-! ## The receiver -/

/-- R110: a valid frame is passed to the block that owns its kind. -/
def State.dispatch (s : State) : ValidFrame → State
  | .poll p => s.dispatchPoll p
  | .announce body => s.dispatchAnnounce body
  | .beacon number => s.dispatchBeacon number
  | .answerKind _ => s.endWithoutAnswer

/-- R108, R109, R110: an end marker ends the frame, which is judged at that event. -/
def State.endFrame (s : State) (r : Reception) : State :=
  match judgeFrame r.content r.endFault with
  | .damaged cause => s.toListen.frameDamaged cause
  | .valid frame => s.toListen.dispatch frame

/-- Whether a byte arriving is this marker; a byte with a framing fault is none (DEDUCED, log 7). -/
def LineByte.isMarker (b : LineByte) (marker : Byte) : Bool := b.value == marker && !b.framingFault

/-- R108, R113: one byte arriving on the line. In SENDING the first byte read back stands at the place of the part's own start marker, which is no collision. -/
def State.lineByte (s : State) (b : LineByte) : State :=
  if s.receives then
    match s.line.state with
    | .listen => if LineByte.isMarker b startMarkerByte then s.beginFrame else s
    | .receiving r =>
      if LineByte.isMarker b endMarkerByte then s.endFrame r
      else if LineByte.isMarker b startMarkerByte then s.frameDamaged .cutShort
      else s.setLine { s.line with state := .receiving (r.byte b) }
    | .gap _ _ _ => if LineByte.isMarker b startMarkerByte then s.countDamage else s
    | .sending claim wire rate echoed =>
      if echoed then (if LineByte.isMarker b startMarkerByte then s.countDamage else s)
      else s.setLine { s.line with state := .sending claim wire rate true }
  else s

/-- A run of bytes arriving on the line, in their order. -/
def State.lineBytes (s : State) (bytes : List LineByte) : State := bytes.foldl State.lineByte s

/-- START_MARKER (R108): a start marker arrives, and after it the bytes of the line given with it. -/
def execStartMarker (following : List LineByte) (s : State) : Host.Outcome State Fault Refusal :=
  .next (s.lineBytes (⟨startMarkerByte, false⟩ :: following))

end Sys2Proof.Machine
end

