-- ==== Sys2Proof/Machine/Commands.lean ====
section
/-! DEFINITION. The command unit: taking a command code, the result record and DONE, the refusal while BUSY, ABORT and unknown codes (spec/08, R132 to R141). -/

namespace Sys2Proof.Machine

def State.setCommand (s : State) (c : CommandUnit) : State := { s with command := c }

/-- R135: a command ends: the result record is written, the unit is IDLE and DONE is raised. -/
def State.finish (s : State) (code : ResultCode) (slot : Nat) (generation : Byte) (count : Nat) : State :=
  (s.setCommand { s.command with state := .idle, result := ⟨code, slot, generation, count⟩ }).raise .done

/-- R136: a command writes the image part of the window. -/
def State.writeImage (s : State) (image : Vector Byte 16) : State :=
  s.setCommand { s.command with image := image }

/-- BAD ARGUMENT with slot, generation and count 0. -/
def State.badArgument (s : State) : State := s.finish .badArgument 0 0 0

/-- R133: a command other than ABORT is taken when IDLE, its code becoming the command code; while BUSY it is refused with COMMAND REFUSED. -/
def State.takeCommand (s : State) (code : Byte) (body : State → State) : State :=
  if s.command.state.busy then s.flag .commandRefused
  else body (s.setCommand { s.command with code := code })

/-- R137: a scanning command goes BUSY with the scan position given. -/
def State.startScan (s : State) (state : CommandState) (position : SlotNo) : State :=
  s.setCommand { s.command with state := state, scan := position }

/-- The slot after a slot; slot 383 has none and stays (R21: the scan does not wrap). -/
def nextSlot (i : SlotNo) : SlotNo := if h : i.val + 1 < 384 then ⟨i.val + 1, h⟩ else i

/-- spec/10: the code of ABORT. -/
def abortCode : Byte := 0x3F

/-- R138, R139: ABORT, taken BUSY or IDLE. -/
def State.abort (s : State) : State :=
  match s.command.state with
  | .idle => (s.setCommand { s.command with code := abortCode }).finish .idle 0 0 0
  | .finding visited =>
    (s.setCommand { s.command with code := abortCode }).finish .aborted s.command.scan.val 0 visited
  | .cascading _ removed =>
    (s.setCommand { s.command with code := abortCode }).finish .aborted s.command.scan.val 0 removed

/-- R140: an unknown code. -/
def State.unknownCommand (s : State) : State := s.finish .badCommand 0 0 0

end Sys2Proof.Machine
end

