-- ==== Sys2Proof/Machine/DirectoryCommands.lean ====
section
/-! DEFINITION. The directory commands LOOKUP, READ SLOT, INSERT, AMEND, RETIRE and FIND, and the visits of a FIND scan (spec/01, R9 to R22). -/

namespace Sys2Proof.Machine

/-- R10. -/
def State.cmdLookup (s : State) : State :=
  match s.command.argKey with
  | none => s.badArgument
  | some k =>
    match s.lookupKey k with
    | none => s.finish .notFound 0 0 0
    | some (i, r) => (s.writeImage r.image).finish .done i.val r.generation 0

/-- R11. -/
def State.cmdReadSlot (s : State) : State :=
  match slotNo? s.command.argWord with
  | none => s.badArgument
  | some i =>
    match (s.slot i).record with
    | some r => (s.writeImage r.image).finish .done i.val r.generation 0
    | none =>
      (s.writeImage (emptySlotImage (s.slot i).generation)).finish .emptySlot i.val (s.slot i).generation 0

/-! ## INSERT -/

/-- R12, R157: the arguments of INSERT. -/
structure InsertArguments where
  key : Key
  group : BitVec 3
  permitted : Bool
  staged : Option Word16
  deriving DecidableEq, Repr

/-- R12 check 1, R157: the arguments when each is in range. -/
def CommandUnit.insertArguments (c : CommandUnit) : Option InsertArguments :=
  match c.argKey, group? c.window.group, yesNo? c.window.permit, yesNo? c.window.select with
  | some k, some g, some permitted, some stagedPresent =>
    some ⟨k, g, permitted, if stagedPresent then some c.window.first else none⟩
  | _, _, _, _ => none

/-- R4: the record that INSERT writes. -/
def InsertArguments.record (a : InsertArguments) (generation : Byte) : Record :=
  { node := a.key.node, channel := a.key.channel, generation := generation, group := a.group,
    reportPermitted := a.permitted, liveLevel := none, liveSeq := false, sent := false, delivered := false,
    stagedLevel := a.staged, halted := false, reportValue := none, reportSeq := false, lastPollCycle := none,
    reasons := .none }

/-- R13: the record placed in a slot, with the generation raised, the key entered and the counts raised. -/
def State.place (s : State) (i : SlotNo) (a : InsertArguments) : State :=
  let generation := (s.slot i).generation + 1
  let s1 := s.setSlot i ⟨generation, some (a.record generation)⟩
  let s2 := s1.setNode a.key.node { s1.node a.key.node with recordCount := (s1.node a.key.node).recordCount + 1 }
  { s2 with
    directory := { s2.directory with
      index := ⟨a.key, i⟩ :: s2.directory.index
      occupancy := s2.directory.occupancy + 1 } }

/-- R12 checks 4 and 5, R13. -/
def State.insertRecord (s : State) (a : InsertArguments) : State :=
  match s.lookupKey a.key with
  | some (i, r) => (s.writeImage r.image).finish .keyInUse i.val r.generation 0
  | none =>
    match s.lowestEmpty with
    | none => s.finish .directoryFull 0 0 0
    | some i =>
      ((s.place i a).writeImage (a.record ((s.slot i).generation + 1)).image).finish .done i.val
        ((s.slot i).generation + 1) 0

/-- R12, R13: INSERT, its checks in their order. -/
def State.cmdInsert (s : State) : State :=
  match s.command.insertArguments with
  | none => s.badArgument
  | some a =>
    match (s.node a.key.node).state with
    | .free => s.finish .noNode 0 0 0
    | .retiring => s.finish .nodeRetiring 0 0 0
    | .offered => s.insertRecord a
    | .assigned => s.insertRecord a
    | .bound => s.insertRecord a
    | .silent => s.insertRecord a

/-! ## AMEND -/

/-- R14, R157: the select set of AMEND with the values that the selected changes use. -/
structure AmendArguments where
  stage : Bool
  unstage : Bool
  setLive : Bool
  group : Bool
  permit : Bool
  halt : Bool
  release : Bool
  stagedValue : Word16
  liveValue : Word16
  groupValue : BitVec 3
  permitValue : Bool
  deriving DecidableEq, Repr

/-- R14 checks 2 to 4, R157: the arguments when they pass. Values of unselected changes are disregarded. -/
def CommandUnit.amendArguments (c : CommandUnit) : Option AmendArguments :=
  let w := c.window
  let bit := w.select.getLsbD
  if w.select.extractLsb' 0 7 = 0 ∨ (bit 0 ∧ bit 1) ∨ (bit 5 ∧ bit 6) then none
  else if (bit 3 ∧ (group? w.group).isNone) ∨ (bit 4 ∧ (yesNo? w.permit).isNone) then none
  else
    some ⟨bit 0, bit 1, bit 2, bit 3, bit 4, bit 5, bit 6, w.first, w.second, (group? w.group).getD 0,
      (yesNo? w.permit).getD false⟩

/-- R16: whether an AMEND is a live change of the record. -/
def AmendArguments.isLiveChange (a : AmendArguments) (r : Record) : Bool := a.setLive || (a.release && r.halted)

/-- R15: every selected change, each finding the record as it stood before the command. -/
def AmendArguments.change (a : AmendArguments) (r : Record) : Record :=
  { r with
    stagedLevel := if a.stage then some a.stagedValue else if a.unstage then none else r.stagedLevel
    liveLevel := if a.setLive then some a.liveValue else r.liveLevel
    group := if a.group then a.groupValue else r.group
    reportPermitted := if a.permit then a.permitValue else r.reportPermitted
    halted := if a.halt then true else if a.release then false else r.halted }

/-- R15, R16: the record after AMEND. -/
def AmendArguments.apply (a : AmendArguments) (r : Record) : Record :=
  if a.isLiveChange r then (a.change r).liveChange else a.change r

/-- R14 checks 5 and 6, R17. -/
def State.amendSlot (s : State) (i : SlotNo) (a : AmendArguments) : State :=
  match (s.slot i).record with
  | none => s.finish .emptySlot i.val (s.slot i).generation 0
  | some r =>
    if r.generation ≠ s.command.argByte 2 then s.finish .stale i.val r.generation 0
    else ((s.setRecord i (a.apply r)).writeImage (a.apply r).image).finish .done i.val r.generation 0

/-- R14 to R17: AMEND. -/
def State.cmdAmend (s : State) : State :=
  match slotNo? s.command.argWord, s.command.amendArguments with
  | some i, some a => s.amendSlot i a
  | _, _ => s.badArgument

/-! ## RETIRE -/

/-- R18, R70: the removal of a record by RETIRE; a RETIRING entry that has lost its last record returns to FREE. -/
def State.retireRecord (s : State) (i : SlotNo) (n : NodeNo) : State :=
  if (s.removeRecord i).lastRecordGone n then (s.removeRecord i).freeNode n else s.removeRecord i

/-- R19: RETIRE. -/
def State.cmdRetire (s : State) : State :=
  match slotNo? s.command.argWord with
  | none => s.badArgument
  | some i =>
    match (s.slot i).record with
    | none => s.finish .emptySlot i.val (s.slot i).generation 0
    | some r =>
      if r.generation ≠ s.command.argByte 2 then s.finish .stale i.val r.generation 0
      else ((s.retireRecord i r.node).writeImage r.image).finish .done i.val r.generation 0

/-! ## FIND -/

/-- R20, R157: the criteria of FIND. -/
structure FindCriteria where
  address : Byte
  pending : Bool
  live : Bool
  halted : Bool
  needUndelivered : Bool
  needStaged : Bool
  needAttention : Bool
  deriving DecidableEq, Repr

/-- R157: the criteria in the window. -/
def WindowArguments.criteria (w : WindowArguments) : FindCriteria :=
  ⟨w.group, w.permit.getLsbD 0, w.permit.getLsbD 1, w.permit.getLsbD 2,
   w.demand.getLsbD 0, w.demand.getLsbD 1, w.demand.getLsbD 2⟩

/-- R20: the checks of FIND's criteria. -/
def FindCriteria.valid (c : FindCriteria) : Bool := c.address.toNat ≤ 239 && (c.pending || c.live || c.halted)

/-- R20: whether the state mask names a state. -/
def FindCriteria.names (c : FindCriteria) : RecordState → Bool
  | .pending => c.pending
  | .live => c.live
  | .halted => c.halted

/-- R20: whether a record meets the criteria. -/
def FindCriteria.met (c : FindCriteria) (r : Record) : Bool :=
  (c.address == 0 || c.address == addressByte r.node) && c.names r.state
    && (!c.needUndelivered || (r.liveLevel.isSome && !r.delivered))
    && (!c.needStaged || r.stagedLevel.isSome)
    && (!c.needAttention || !r.reasons.isEmpty)

/-- R20, R21: FIND. -/
def State.cmdFind (s : State) : State :=
  match slotNo? s.command.argWord with
  | none => s.badArgument
  | some i => if s.command.window.criteria.valid then s.startScan (.finding 0) i else s.badArgument

/-- R22: a visit of a FIND that does not match. -/
def State.findPasses (s : State) (visited : Nat) : State :=
  if s.command.scan.val = 383 then s.finish .none 0 0 (visited + 1)
  else s.setCommand { s.command with state := .finding (visited + 1), scan := nextSlot s.command.scan }

/-- R21, R22: one visit of a running FIND. -/
def State.visitFind (s : State) (visited : Nat) : State :=
  match (s.slot s.command.scan).record with
  | none => s.findPasses visited
  | some r =>
    if s.command.window.criteria.met r then
      (s.writeImage r.image).finish .done s.command.scan.val r.generation (visited + 1)
    else s.findPasses visited

/-- FIND_VISIT (R21, R22). Without a running FIND no visit occurs (log 3). -/
def execFindVisit (s : State) : Host.Outcome State Fault Refusal :=
  .next (unlessHeld (fun s =>
    match s.command.state with
    | .finding visited => s.visitFind visited
    | _ => s) s)

end Sys2Proof.Machine
end

