-- ==== Sys2Proof/Machine/NodeCommands.lean ====
section
/-! DEFINITION. The node commands OFFER, READ NODE and RETIRE NODE with its cascade (spec/03, R51 to R53, R66 to R70), and the load commands LOAD, SCHEDULE and UNSCHEDULE (spec/04, R77 to R81). -/

namespace Sys2Proof.Machine

/-! ## OFFER and READ NODE -/

/-- R51 check 1: the entry of an address 1 to 239 within the answer range. -/
def State.offerTarget (s : State) : Option NodeNo :=
  if s.line.rangeLow.toNat ≤ (s.command.argByte 0).toNat ∧ (s.command.argByte 0).toNat ≤ s.line.rangeHigh.toNat then
    nodeNo? (s.command.argByte 0)
  else none

/-- R51 check 4: the entry, not FREE, that holds an identity. -/
def State.identityHolder (s : State) (identity : Identity) : Option NodeNo :=
  (List.finRange 239).find? (fun n => (s.node n).state != .free && (s.node n).identity == some identity)

/-- R52: the entry after OFFER. -/
def offeredEntry (e : NodeEntry) (w : WindowArguments) : NodeEntry :=
  { e with
    state := .offered
    identity := some w.identity
    lapseLimit := w.group
    offerRemaining := if w.first.toNat = 0 then none else some w.first.toNat }

/-- R52. -/
def State.makeOffer (s : State) (n : NodeNo) : State :=
  ((s.setNode n (offeredEntry (s.node n) s.command.window)).writeImage
      (offeredEntry (s.node n) s.command.window).image).finish .done (nodeAddress n) 0 0

/-- R51, R52: OFFER, its checks in their order. The count of ADDRESS IN USE and IDENTITY IN USE, which R51 does not give, is 0 (DESIGN CHOICE, log 27). -/
def State.cmdOffer (s : State) : State :=
  match s.offerTarget with
  | none => s.finish .outOfRange 0 0 0
  | some n =>
    if (s.node n).state ≠ .free then (s.writeImage (s.node n).image).finish .addressInUse (nodeAddress n) 0 0
    else if !validIdentity s.command.window.identity then s.finish .badIdentity 0 0 0
    else
      match s.identityHolder s.command.window.identity with
      | some m => (s.writeImage (s.node m).image).finish .identityInUse (nodeAddress m) 0 0
      | none => if s.command.window.first.toNat ≤ 4095 then s.makeOffer n else s.badArgument

/-- R53: READ NODE. -/
def State.cmdReadNode (s : State) : State :=
  match nodeNo? (s.command.argByte 0) with
  | none => s.badArgument
  | some n =>
    (s.writeImage (s.node n).image).finish (if (s.node n).state = .free then .noNode else .done) (nodeAddress n) 0 0

/-! ## RETIRE NODE -/

/-- R66: the entry becomes RETIRING, its other fields held. -/
def State.makeRetiring (s : State) (n : NodeNo) : State := s.setNode n { s.node n with state := .retiring }

/-- R66: RETIRE NODE. -/
def State.cmdRetireNode (s : State) : State :=
  match nodeNo? (s.command.argByte 0) with
  | none => s.badArgument
  | some n =>
    if (s.node n).state = .free then s.finish .noNode (nodeAddress n) 0 0
    else if (s.node n).recordCount = 0 then
      ((s.makeRetiring n).freeNode n).finish .done (nodeAddress n) 0 0
    else (s.makeRetiring n).startScan (.cascading n 0) 0

/-- R68: a visit of the cascade that does not end it. -/
def State.cascadePasses (s : State) (n : NodeNo) (removed : Nat) : State :=
  s.setCommand { s.command with state := .cascading n removed, scan := nextSlot s.command.scan }

/-- R68, R69: a visit of the cascade that removes a record. -/
def State.cascadeRemoves (s : State) (n : NodeNo) (removed : Nat) : State :=
  if ((s.removeRecord s.command.scan).node n).recordCount = 0 then
    ((s.removeRecord s.command.scan).freeNode n).finish .done (nodeAddress n) 0 (removed + 1)
  else (s.removeRecord s.command.scan).cascadePasses n (removed + 1)

/-- R68, R69: one visit of a running cascade. -/
def State.visitCascade (s : State) (n : NodeNo) (removed : Nat) : State :=
  match (s.slot s.command.scan).record with
  | none => s.cascadePasses n removed
  | some r => if r.node = n then s.cascadeRemoves n removed else s.cascadePasses n removed

/-- CASCADE_VISIT (R68, R69). Without a running cascade no visit occurs (log 3). -/
def execCascadeVisit (s : State) : Host.Outcome State Fault Refusal :=
  .next (unlessHeld (fun s =>
    match s.command.state with
    | .cascading n removed => s.visitCascade n removed
    | _ => s) s)

/-! ## The load commands -/

/-- R77: LOAD. -/
def State.cmdLoad (s : State) : State :=
  if s.command.argByte 0 = 0 then s.badArgument
  else (s.load (s.command.argByte 0)).finish .done 0 0 (s.loadCount (s.command.argByte 0))

/-- R80, R81: the position of the entry that holds a target. -/
def State.schedulePlace (s : State) (target : Word16) : Option Nat :=
  s.schedule.findIdx? (fun e => e.target == target)

def State.setSchedule (s : State) (es : List ScheduleEntry) : State := { s with schedule := es }

/-- R80: an entry that holds the target takes the union of the masks. -/
def ScheduleEntry.merge (target : Word16) (mask : Byte) (e : ScheduleEntry) : ScheduleEntry :=
  if e.target = target then { e with mask := e.mask ||| mask } else e

/-- R79, R80: SCHEDULE, its checks in their order. -/
def State.cmdSchedule (s : State) : State :=
  let target := s.command.argWord
  let mask := s.command.argByte 2
  if !ahead target s.cycle.counter then s.finish .pastDue 0 0 s.schedule.length
  else if mask = 0 then s.finish .badArgument 0 0 s.schedule.length
  else
    match s.schedulePlace target with
    | some p =>
      (s.setSchedule (s.schedule.map (ScheduleEntry.merge target mask))).finish .done p 0 s.schedule.length
    | none =>
      if s.schedule.length < Config.scheduleDepth then
        (s.setSchedule (s.schedule ++ [⟨target, mask⟩])).finish .done s.schedule.length 0 (s.schedule.length + 1)
      else s.finish .scheduleFull 0 0 s.schedule.length

/-- R81: UNSCHEDULE. -/
def State.cmdUnschedule (s : State) : State :=
  match s.schedulePlace s.command.argWord with
  | none => s.finish .notFound 0 0 s.schedule.length
  | some p =>
    (s.setSchedule (s.schedule.eraseIdx p)).finish .done p 0 (s.schedule.length - 1)

end Sys2Proof.Machine
end

