-- ==== Sys2Proof/Machine/Settings.lean ====
section
/-! DEFINITION. The writes of the host fields as their owners apply them, and what every field reads (spec/10 Host address map, spec/09 R144, R149, R150, R152, spec/06 R104, R116, R117, spec/07 R128, R129, spec/08 R134). -/

namespace Sys2Proof.Machine

def State.setPort (s : State) (p : HostPort) : State := { s with port := p }

/-! ## Line settings -/

/-- R104: the line rate, accepted from 0 to 3 while RUN is clear. -/
def State.writeLineRate (s : State) (value : Byte) : State :=
  if value.toNat ≤ 3 ∧ s.cycle.run = false then s.setLine { s.line with rate := value.setWidth 2 }
  else s.flag .settingRefused

/-- R116: the answer gap, accepted from 2 to 15. -/
def State.writeAnswerGap (s : State) (value : Byte) : State :=
  if 2 ≤ value.toNat ∧ value.toNat ≤ 15 then s.setLine { s.line with gap := value } else s.flag .settingRefused

/-- R117: every node entry that is not FREE lies from low to high. -/
def State.entriesWithin (s : State) (low high : Byte) : Bool :=
  (List.finRange 239).all (fun n =>
    (s.node n).state == .free || (low.toNat ≤ nodeAddress n && nodeAddress n ≤ high.toNat))

/-- R117: the answer range. -/
def State.writeAnswerRange (s : State) (low high : Byte) : State :=
  if s.cycle.run = false ∧ 1 ≤ low.toNat ∧ low.toNat ≤ 239 ∧ 1 ≤ high.toNat ∧ high.toNat ≤ 239
      ∧ low.toNat ≤ high.toNat ∧ s.entriesWithin low high then
    s.setLine { s.line with rangeLow := low, rangeHigh := high }
  else s.flag .settingRefused

/-! ## Event block and shared interface block -/

/-- R128. -/
def State.writeEvents (s : State) (value : Word16) : State := { s with events := s.events.clear value }

/-- R129, R156: every value is accepted; bits 9 to 15 are disregarded. -/
def State.writeMask (s : State) (value : Word16) : State := { s with mask := value.setWidth 9 }

/-- R152. -/
def State.writeErrorFlags (s : State) (value : Word16) : State :=
  s.setPort { s.port with errors := s.port.errors.clear value }

/-- R149, spec/10: the settings that a value of the interface control field carries. -/
def configOf (value : Byte) : InterfaceConfig :=
  { mode := if value.getLsbD 0 then .singleField else .streaming
    direction := if value.getLsbD 1 then .descending else .ascending
    statusSend := value.getLsbD 2
    keepLoop := value.getLsbD 3 }

/-- R149, R154: the settings are taken, and a soft reset request is recorded when both marks are set. -/
def State.writeInterfaceControl (s : State) (value : Byte) : State :=
  s.setPort { s.port with
    config := configOf value
    softReset := s.port.softReset || (value.getLsbD 6 && value.getLsbD 7) }

/-- R147: every value is accepted. -/
def State.writeLoopLength (s : State) (value : Byte) : State :=
  s.setPort { s.port with loopLength := value }

/-- R150: the CRC setting changes only when the two marks differ. -/
def State.writeCrcEnablePair (s : State) (value : Byte) : State :=
  if value.getLsbD 0 = value.getLsbD 1 then s else s.setPort { s.port with crcOn := value.getLsbD 0 }

/-! ## Command block -/

/-- R134: the command argument and the argument part of the window are written while IDLE, and guarded while BUSY. -/
def State.writeGuarded (s : State) (c : CommandUnit) : State :=
  if s.command.state.busy then s.flag .windowLocked else s.setCommand c

def State.setWindow (s : State) (w : WindowArguments) : State := s.writeGuarded { s.command with window := w }

/-- R133, R140, spec/10: a write of the command code field. -/
def State.writeCommandCode (s : State) (code : Byte) : State :=
  if code = 0x01 then s.takeCommand code State.cmdLookup
  else if code = 0x02 then s.takeCommand code State.cmdReadSlot
  else if code = 0x03 then s.takeCommand code State.cmdInsert
  else if code = 0x04 then s.takeCommand code State.cmdAmend
  else if code = 0x05 then s.takeCommand code State.cmdRetire
  else if code = 0x06 then s.takeCommand code State.cmdFind
  else if code = 0x11 then s.takeCommand code State.cmdReadNode
  else if code = 0x12 then s.takeCommand code State.cmdOffer
  else if code = 0x13 then s.takeCommand code State.cmdRetireNode
  else if code = 0x21 then s.takeCommand code State.cmdLoad
  else if code = 0x22 then s.takeCommand code State.cmdSchedule
  else if code = 0x23 then s.takeCommand code State.cmdUnschedule
  else if code = abortCode then s.abort
  else s.takeCommand code State.unknownCommand

/-! ## Fields as bytes -/

/-- Byte `i` of the bytes of a field. -/
def byteOf (bytes : List Byte) (i : Nat) : Byte := bytes.getD i 0

/-- The 16-bit value of the first two bytes of a field. -/
def wordOf (bytes : List Byte) : Word16 := join16 (byteOf bytes 0) (byteOf bytes 1)

/-- R144: a field whose bytes have all arrived is applied by its owner. A read-only field is discarded with READ-ONLY WRITE, and so is the CRC enable pair when a stream started elsewhere reaches it (R150); an unknown address discards. -/
def State.applyField (s : State) (f : Field) (bytes : List Byte) : State :=
  match f with
  | .interfaceControl => s.writeInterfaceControl (byteOf bytes 0)
  | .loopLength => s.writeLoopLength (byteOf bytes 0)
  | .errorFlags => s.writeErrorFlags (wordOf bytes)
  | .eventRegister => s.writeEvents (wordOf bytes)
  | .eventMask => s.writeMask (wordOf bytes)
  | .cycleControl => s.writeCycleControl (byteOf bytes 0)
  | .cyclePeriod => s.writeCyclePeriod (byteOf bytes 0)
  | .lineRate => s.writeLineRate (byteOf bytes 0)
  | .answerGap => s.writeAnswerGap (byteOf bytes 0)
  | .answerRange => s.writeAnswerRange (byteOf bytes 0) (byteOf bytes 1)
  | .commandCode => s.writeCommandCode (byteOf bytes 0)
  | .commandArgument =>
    s.writeGuarded { s.command with
      argument := byteOf bytes 3 ++ byteOf bytes 2 ++ byteOf bytes 1 ++ byteOf bytes 0 }
  | .windowIdentity => s.setWindow { s.command.window with identity := join64 bytes }
  | .windowFirst => s.setWindow { s.command.window with first := wordOf bytes }
  | .windowSecond => s.setWindow { s.command.window with second := wordOf bytes }
  | .windowSelect => s.setWindow { s.command.window with select := byteOf bytes 0 }
  | .windowGroup => s.setWindow { s.command.window with group := byteOf bytes 0 }
  | .windowPermit => s.setWindow { s.command.window with permit := byteOf bytes 0 }
  | .windowDemand => s.setWindow { s.command.window with demand := byteOf bytes 0 }
  | .unknown _ => s
  | .crcEnablePair => s.flag .readOnlyWrite
  | .summary | .partNumber | .revision | .attentionCount | .occupancyCount | .cycleCounter | .cycleState
  | .damagedCount | .commandState | .scanPosition | .resultRecord | .windowImage | .schedulePosition _
  | .lastFired | .takeField | .strayCapture | .recordImage _ => s.flag .readOnlyWrite

/-- R144, spec/10: what a field reads, the lowest address first. The take field is read from its latch. -/
def State.readField (s : State) (f : Field) : List Byte :=
  match f with
  | .interfaceControl =>
    [marks [s.port.config.mode == .singleField, s.port.config.direction == .descending,
      s.port.config.statusSend, s.port.config.keepLoop]]
  | .loopLength => [s.port.loopLength]
  | .crcEnablePair => [marks [s.port.crcOn, !s.port.crcOn]]
  | .summary => [s.summary]
  | .errorFlags => bytes16 s.port.errors.bits
  | .partNumber => bytes16 Config.partNumber
  | .revision => [Config.revision]
  | .eventRegister => bytes16 s.eventBits
  | .eventMask => bytes16 (s.mask.setWidth 16)
  | .attentionCount => bytes16 (word16 s.attentionCount)
  | .occupancyCount => bytes16 (word16 s.directory.occupancy)
  | .cycleControl => [marks [s.cycle.run, s.cycle.mode == .follower]]
  | .cyclePeriod => [s.cycle.period]
  | .lineRate => [s.line.rate.setWidth 8]
  | .answerGap => [s.line.gap]
  | .answerRange => [s.line.rangeLow, s.line.rangeHigh]
  | .cycleCounter => bytes16 s.cycle.counter
  | .cycleState => [s.cycle.state.code]
  | .damagedCount => bytes16 (word16 s.line.damaged)
  | .commandCode => [s.command.code]
  | .commandState => [if s.command.state.busy then 1 else 0]
  | .scanPosition => bytes16 (word16 s.command.scan.val)
  | .commandArgument =>
    [s.command.argByte 0, s.command.argByte 1, s.command.argByte 2, s.command.argByte 3]
  | .resultRecord => s.command.result.bytes
  | .windowImage => s.command.image.toList
  | .windowIdentity => bytes64 s.command.window.identity
  | .windowFirst => bytes16 s.command.window.first
  | .windowSecond => bytes16 s.command.window.second
  | .windowSelect => [s.command.window.select]
  | .windowGroup => [s.command.window.group]
  | .windowPermit => [s.command.window.permit]
  | .windowDemand => [s.command.window.demand]
  | .schedulePosition p => s.schedulePosition p.val
  | .lastFired => s.lastFired.bytes
  | .takeField => takeBytes s.take
  | .strayCapture => s.stray.bytes
  | .recordImage i => (s.slot i).image.toList
  | .unknown _ => [0]

end Sys2Proof.Machine
end

