-- ==== Sys2Proof/Machine/Access.lean ====
section
/-! DEFINITION. What an access of the host serial port keeps track of: instruction phases, the address and the loop length, the end of a field and of an access (spec/09, R142 to R148, R154). -/

namespace Sys2Proof.Machine

def State.setPhase (s : State) (p : PortPhase) : State := s.setPort { s.port with phase := p }

/-- What SDO carried while bytes were clocked. -/
def State.emit (s : State) (out : List Sdo) : State := s.setPort { s.port with sdo := s.port.sdo ++ out }

/-- R153: an instruction phase starts; the status bytes are captured. The first of a frame starts as CSN falls (DEDUCED, log 28), every later one with its first byte (R148). -/
def State.beginInstruction (s : State) : State := s.setPhase (.instruction none s.statusBytes)

/-- R144: the address of the first byte of a field in a direction. -/
def Field.first (f : Field) (d : Direction) : HostAddr :=
  match d with
  | .ascending => f.base
  | .descending => f.base + BitVec.ofNat 13 (f.length - 1)

/-- R144: the bytes of a field in the order of transfer, from the lowest address first, and back. -/
def orient (d : Direction) (bytes : List Byte) : List Byte :=
  match d with
  | .ascending => bytes
  | .descending => bytes.reverse

/-- R146: the address after one byte. -/
def nextAddr (d : Direction) (a : HostAddr) : HostAddr :=
  match d with
  | .ascending => a + 1
  | .descending => if a = 0 then 0x1BFF else a - 1

/-- R150: a write that starts at the CRC enable pair. -/
def Access.writesPair (a : Access) : Bool := !a.isRead && a.start == Field.base .crcEnablePair

/-- R147: whether the loop length returns the address to the start after the bytes so far. It has no effect in single-field mode. -/
def Access.loopsAt (a : Access) (count : Nat) : Bool :=
  a.mode == .streaming && a.loop != 0 && count % a.loop == 0

/-- R146, R147: the access after one data byte. -/
def Access.advance (a : Access) : Access :=
  { a with
    count := a.count + 1
    addr := if a.loopsAt (a.count + 1) then a.start else nextAddr a.direction a.addr }

/-- R147: at the end of an access that the part took, the loop length becomes 0 unless KEEP LOOP is set or it was written during the access. -/
def State.closeAccess (s : State) (a : Access) : State :=
  if a.taken && !a.keepLoop && !a.loopWritten then s.setPort { s.port with loopLength := 0 } else s

/-- R148, R150, R154: what follows a field and its CRC byte: nothing more of the frame after a soft reset request, in single-field mode the next byte as the start of an instruction phase, nothing more after a write of the CRC enable pair, otherwise the next field. -/
def State.afterField (s : State) (a : Access) : State :=
  if s.port.softReset then s.setPhase (.disregard (some a))
  else
    match a.mode with
    | .singleField => (s.closeAccess a).setPhase .between
    | .streaming => if a.writesPair then s.setPhase (.disregard (some a)) else s.setPhase (.data a)

end Sys2Proof.Machine
end

