-- ==== Sys2Proof/Machine/Port.lean ====
section
/-! DEFINITION. The host serial port byte by byte: instruction phases, the host CRC, streaming and single-field data phases, latching and gathering of fields, partial fields, and the end of a frame (spec/09, R142 to R155). -/

namespace Sys2Proof.Machine

/-! ## The instruction phase (R142, R153) -/

/-- R142: whether the chip code in bits 14 and 13 of the instruction equals the part's. -/
def State.chipMatches (s : State) (first : Byte) : Bool := first.extractLsb' 5 2 == s.port.chipCode

/-- R142: the start address in bits 12 to 0 of the instruction. -/
def instructionAddr (first second : Byte) : HostAddr := first.extractLsb' 0 5 ++ second

/-- R142, R147, R149: the access that an instruction asks for, with the settings it begins with. -/
def State.newAccess (s : State) (first second : Byte) (duringClear : Bool) : Access :=
  { taken := s.chipMatches first || (!first.getLsbD 7 && sharedAddr (instructionAddr first second))
    isRead := first.getLsbD 7
    sharedOnly := !s.chipMatches first
    start := instructionAddr first second
    addr := instructionAddr first second
    count := 0
    mode := s.port.config.mode
    direction := s.port.config.direction
    loop := s.port.loopLength.toNat
    keepLoop := s.port.config.keepLoop
    duringClear := duringClear
    loopWritten := false
    alone := false
    transfer := none }

/-- R155: whether an access is one that the start-up clear turns away: any that the part takes, but for a read of the summary field. -/
def Access.turnedAway (a : Access) : Bool := a.taken && a.duringClear && !(a.isRead && fieldAt a.start == .summary)

/-- R155: an access during the start-up clear sets NOT READY. -/
def State.beginData (s : State) (a : Access) : State :=
  (s.flagIf a.turnedAway .notReady).setPhase (.data a)

/-- R142, R148, R150, R151: after the second instruction byte. An access that the part does not take is ignored whole; in single-field mode its bytes are followed to find the next instruction phase (log 13). -/
def State.instructionEnd (s : State) (first second : Byte) (duringClear : Bool) : State :=
  let a := s.newAccess first second duringClear
  if !a.taken && a.mode == .streaming then s.setPhase (.disregard none)
  else if s.port.frameCrc && !a.writesPair then s.setPhase (.hostCrc first second duringClear)
  else s.beginData a

/-- R151: the seed of the instruction CRC. -/
def instructionSeed : Byte := 0x3C

/-- R151: the host CRC byte after the instruction phase. An access whose CRC fails during the start-up clear sets NOT READY beside CRC MISMATCH, the part having taken it (DEDUCED, log 10). -/
def State.checkInstruction (s : State) (first second : Byte) (duringClear : Bool) (crc : Byte) : State :=
  let a := s.newAccess first second duringClear
  if !a.taken || crc8 instructionSeed [first, second] == crc then s.beginData a
  else ((s.flagIf a.turnedAway .notReady).flag .crcMismatch).setPhase (.disregard (some a))

/-- R153: what SDO carries in a byte of the instruction phase. -/
def State.statusOut (s : State) (first : Byte) (out : Sdo) : Sdo :=
  if s.port.config.statusSend && s.chipMatches first then out else .highZ

/-! ## Fields (R144, R145) -/

/-- R145: the bytes from an address to the end of its field, in the direction of transfer. -/
def bytesToEnd (f : Field) (d : Direction) (addr : HostAddr) : Nat :=
  match d with
  | .ascending => f.base.toNat + f.length - addr.toNat
  | .descending => addr.toNat - f.base.toNat + 1

/-- R151: the lowest address of the bytes of a field from an address on. -/
def lowestOf (f : Field) (d : Direction) (addr : HostAddr) : HostAddr :=
  match d with
  | .ascending => addr
  | .descending => f.base

/-- Whether an access stands inside a field and not at its first byte. -/
def Access.inMiddle (a : Access) : Bool := a.addr != (fieldAt a.addr).first a.direction

/-- Whether an address belongs to no field. -/
def Field.isUnknown : Field → Bool
  | .unknown _ => true
  | _ => false

/-- R144, R145, R155: what the start of a field sets and latches. -/
def State.startEffects (s : State) (a : Access) : State :=
  let f := fieldAt a.addr
  if !a.taken then s
  else if a.duringClear then s.flagIf (!(a.isRead && f == .summary)) .notReady
  else
    let s1 := (s.flagIf a.inMiddle .partialField).flagIf f.isUnknown .unknownAddress
    if !a.isRead || a.inMiddle then s1
    else
      match f with
      | .takeField => s1.latchTake
      | .damagedCount => s1.latchDamaged
      | _ => s1

/-- R144, R145, R155: the bytes a read sends of the field at its address, in the order of transfer. -/
def State.latchBytes (s : State) (a : Access) : List Byte :=
  let f := fieldAt a.addr
  if !a.isRead then []
  else if a.duringClear then
    if f = .summary then [s.summary] else List.replicate (bytesToEnd f a.direction a.addr) 0
  else if a.inMiddle then List.replicate (bytesToEnd f a.direction a.addr) 0
  else orient a.direction (s.readField f)

/-- R144: the transfer of the field at the access's address, as it begins. -/
def State.newTransfer (s : State) (a : Access) : Transfer :=
  let f := fieldAt a.addr
  { field := f, middle := a.inMiddle, lowest := lowestOf f a.direction a.addr,
    left := bytesToEnd f a.direction a.addr, latch := s.latchBytes a, crossed := [] }

/-- R144: one byte of a field crosses the port. -/
def Transfer.cross (t : Transfer) (isRead : Bool) (sdi : Byte) : Transfer :=
  { t with
    left := t.left - 1
    latch := t.latch.tail
    crossed := t.crossed ++ [if isRead then t.latch.headD 0 else sdi] }

/-- R144: what the last byte of a field does: a read that acts, acts, unless the field was entered in the middle (R145); a write of a read-only field, wherever it entered the field (R8), or a stream that reaches the CRC enable pair (R150), sets READ-ONLY WRITE. -/
def State.lastByte (s : State) (a : Access) (t : Transfer) : State :=
  if !a.taken || a.duringClear then s
  else if a.isRead then
    match t.middle, t.field with
    | false, .takeField => s.completeTake
    | false, .damagedCount => s.completeDamaged
    | _, _ => s
  else s.flagIf (t.field.readOnly || (t.field == .crcEnablePair && !a.writesPair)) .readOnlyWrite

/-- R144, R145, R155: whether the field of a write is applied: not one entered in the middle, nor any field of an access during the start-up clear. -/
def Access.applies (a : Access) (t : Transfer) : Bool := !a.isRead && a.taken && !a.duringClear && !t.middle

/-- R144, R150: a gathered field is applied. -/
def State.applyTransfer (s : State) (a : Access) (t : Transfer) : State :=
  if a.applies t then
    if a.writesPair && t.field == .crcEnablePair then s.writeCrcEnablePair (byteOf t.crossed 0)
    else s.applyField t.field (orient a.direction t.crossed)
  else s

/-- R147: the access after a field is applied; it has now written the loop length if that was the field. -/
def Access.noteApplied (a : Access) (t : Transfer) : Access :=
  { a with loopWritten := a.loopWritten || (a.applies t && t.field == .loopLength) }

/-- R144: a gathered field is applied, and the access goes on behind it. -/
def State.applyAndGoOn (s : State) (a : Access) (t : Transfer) : State :=
  (s.applyTransfer a t).afterField (a.noteApplied t)

/-- R151: the CRC of a field, over its bytes as they crossed the port, seeded with the low byte of the lowest address. -/
def Transfer.crc (t : Transfer) : Byte := crc8 (t.lowest.setWidth 8) t.crossed

/-- R144, R151: the last byte of a field has crossed: its CRC byte follows while CRC is in force, otherwise the field is applied. -/
def State.finishField (s : State) (a : Access) (t : Transfer) : State :=
  let s1 := s.lastByte a t
  if s.port.frameCrc && !a.writesPair then s1.setPhase (.fieldCrc a t) else s1.applyAndGoOn a t

/-- R145, R147: a field cut by the loop length has no effect. -/
def State.cutField (s : State) (a : Access) : State :=
  ((s.flagIf (a.taken && !a.duringClear) .partialField).dropLatches).setPhase (.data { a with transfer := none })

/-- R144 to R147: one data byte of a transfer. -/
def State.transferByte (s : State) (a : Access) (t : Transfer) (sdi : Byte) : State :=
  let t1 := t.cross a.isRead sdi
  let a1 := { a.advance with transfer := none }
  let s1 := s.emit [if a.isRead && a.taken then .byte (t.latch.headD 0) else .highZ]
  if t1.left = 0 then s1.finishField a1 t1
  else if a.loopsAt (a.count + 1) then s1.cutField a1
  else s1.setPhase (.data { a1 with transfer := some t1 })

/-- R142, R144: one data byte. A shared write ends at the first byte outside the shared block, without a flag; the rest of the frame is then nobody's, so that CSN rising off a byte boundary sets no BIT COUNT either (DEDUCED, log 9), and the term of the loop length ends there (DEDUCED, log 11). -/
def State.dataByte (s : State) (a : Access) (sdi : Byte) : State :=
  if a.taken && a.sharedOnly && !sharedAddr a.addr then
    ((s.closeAccess a).setPhase (.disregard none)).emit [.highZ]
  else
    match a.transfer with
    | some t => s.transferByte a t sdi
    | none => (s.startEffects a).transferByte a ((s.startEffects a).newTransfer a) sdi

/-- R151: the CRC byte after a field. -/
def State.fieldCrcByte (s : State) (a : Access) (t : Transfer) (sdi : Byte) : State :=
  if a.isRead then (s.emit [if a.taken then .byte t.crc else .highZ]).afterField a
  else if t.crc = sdi then (s.emit [.highZ]).applyAndGoOn a t
  else ((s.emit [.highZ]).flagIf a.taken .crcMismatch).afterField a

/-- R142, R153: the first byte of an instruction phase that started with this status. -/
def State.firstByte (s : State) (st : StatusBytes) (sdi : Byte) : State :=
  (s.emit [s.statusOut sdi (.status st.first)]).setPhase (.instruction (some sdi) st)

/-- R142: one byte clocked while CSN is low. -/
def State.clockByte (s : State) (sdi : Byte) : State :=
  match s.port.phase with
  | .idle => s
  | .between => s.firstByte s.statusBytes sdi
  | .instruction none st => s.firstByte st sdi
  | .instruction (some first) st =>
    (s.emit [s.statusOut first (.byte st.second)]).instructionEnd first sdi (st.first.getLsbD 0)
  | .hostCrc first second d => (s.emit [.highZ]).checkInstruction first second d sdi
  | .data a => s.dataByte a sdi
  | .fieldCrc a t => s.fieldCrcByte a t sdi
  | .disregard _ => s.emit [.highZ]

/-- R142, R150, R154: CSN falls, if it was high: a frame opens, with the CRC setting as it stands. In reset no access is taken. -/
def State.openFrame (s : State) : State :=
  match s.port.phase with
  | .idle =>
    if s.resetHeld then s.setPort { s.port with sdo := [], phase := .disregard none }
    else (s.setPort { s.port with sdo := [], frameCrc := s.port.crcOn }).beginInstruction
  | _ => s

/-- INSTRUCTION_PHASE (R142): the bytes clocked on SDI, in a frame that they open or go on with. -/
def execInstructionPhase (sdi : List Byte) (s : State) : Host.Outcome State Fault Refusal :=
  .next (sdi.foldl State.clockByte s.openFrame)

/-! ## The end of a frame -/

/-- R143: whether the chip code bits among the bits of an incomplete first instruction byte match the part's (DEDUCED, log 9). -/
def State.chipBitsMatch (s : State) : List Bool → Bool
  | _ :: b1 :: b0 :: _ => b1 == s.port.chipCode.getLsbD 1 && b0 == s.port.chipCode.getLsbD 0
  | [_, b1] => b1 == s.port.chipCode.getLsbD 1
  | _ => true

/-- R143: whether CSN rising off a byte boundary sets BIT COUNT. The rest of a frame is disregarded with the access that the part took, if it took one and has not ceased to (DEDUCED, log 9). -/
def State.bitsCount (s : State) (tail : List Bool) : Bool :=
  !tail.isEmpty &&
    match s.port.phase with
    | .idle => false
    | .between => s.chipBitsMatch tail
    | .instruction none _ => s.chipBitsMatch tail
    | .instruction (some first) _ => s.chipMatches first
    | .hostCrc _ _ _ => false
    | .data a => a.taken
    | .fieldCrc a _ => a.taken
    | .disregard none => false
    | .disregard (some a) => a.taken

/-- R145: whether the frame ends inside a field. -/
def State.fieldCut (s : State) : Bool :=
  match s.port.phase with
  | .data a => a.taken && !a.duringClear && a.transfer.isSome
  | _ => false

/-- R145: a field cut short by the end of the frame; a read has no effect and its latch is discarded. -/
def State.cutAtEnd (s : State) (cut : Bool) : State := if cut then (s.flag .partialField).dropLatches else s

/-- R147: the access in progress ends. -/
def State.endAccess (s : State) : State :=
  match s.port.phase with
  | .data a => s.closeAccess a
  | .fieldCrc a _ => s.closeAccess a
  | .disregard (some a) => s.closeAccess a
  | .disregard none => s
  | .idle => s
  | .between => s
  | .instruction _ _ => s
  | .hostCrc _ _ _ => s

/-- R154: the host serial port after a soft reset keeps the interface configuration, the loop length, the CRC setting and the chip code. -/
def HostPort.afterSoftReset (p : HostPort) : HostPort :=
  { HostPort.reset with
    config := p.config, loopLength := p.loopLength, crcOn := p.crcOn, chipCode := p.chipCode, sdo := p.sdo }

/-- R143, R145, R154: CSN rises: the flags, the end of the access, and a soft reset that was requested. The access ends first, so that the loop length that the soft reset keeps is the one left by the end of its term (DEDUCED, log 11). -/
def State.closeFrame (s : State) (tail : List Bool) : State :=
  let s1 := (s.flagIf (s.bitsCount tail) .bitCount).cutAtEnd s.fieldCut
  let s2 := s1.endAccess.setPhase .idle
  if s.port.softReset then s2.resetWith s2.port.afterSoftReset else s2

/-- CSN_RISE (R143). While RSTN is held low the frame ends without a flag (R154). -/
def execCsnRise (tail : List Bool) (s : State) : Host.Outcome State Fault Refusal :=
  .next (if s.resetHeld then s.setPhase .idle else s.closeFrame tail)

end Sys2Proof.Machine
end

