-- ==== Sys2Proof/Machine/HostRows.lean ====
section
/-! DEFINITION. The rows that stand for the transfer of one field, as the bytes on SDI that carry it: the instruction phase where the row begins an access, the bytes of the field, and the host CRC bytes where they are in force (spec/09, R142 to R151; log 4). -/

namespace Sys2Proof.Machine

/-! ## Where a row can begin -/

/-- The direction in which a row transfers its bytes: that of the access in progress, otherwise the one set (R149). -/
def State.rowDirection (s : State) : Direction :=
  match s.port.phase with
  | .data a => a.direction
  | .fieldCrc a _ => a.direction
  | .idle => s.port.config.direction
  | .between => s.port.config.direction
  | .instruction _ _ => s.port.config.direction
  | .hostCrc _ _ _ => s.port.config.direction
  | .disregard _ => s.port.config.direction

/-- R155: whether an access now is one during the start-up clear: the phase of an access in progress began in it. -/
def State.accessInClear (s : State) : Bool :=
  match s.port.phase with
  | .idle => s.clearing
  | .between => s.clearing
  | .instruction _ st => st.first.getLsbD 0
  | .hostCrc _ _ d => d
  | .data a => a.duringClear
  | .fieldCrc a _ => a.duringClear
  | .disregard _ => s.clearing

/-- Whether a row whose first byte is transferred at an address can begin: RSTN is not held low, no soft reset is awaited, and CSN is high, or an instruction phase stands at its start, or the access in progress is taken by the part, goes the same way and stands at that address with no field begun (log 4). -/
def State.admitsAt (s : State) (start : HostAddr) (isRead : Bool) : Bool :=
  !s.resetHeld && !s.port.softReset &&
    match s.port.phase with
    | .idle => true
    | .between => true
    | .instruction none _ => true
    | .data a => a.taken && a.isRead == isRead && a.transfer.isNone && a.addr == start
    | .instruction (some _) _ => false
    | .hostCrc _ _ _ => false
    | .fieldCrc _ _ => false
    | .disregard _ => false

/-- R144: whether a row that transfers a field from its first byte on can begin. -/
def State.admits (s : State) (f : Field) (isRead : Bool) : Bool := s.admitsAt (f.first s.rowDirection) isRead

/-- Whether CSN is high. -/
def PortPhase.isIdle : PortPhase → Bool
  | .idle => true
  | .between => false
  | .instruction _ _ => false
  | .hostCrc _ _ _ => false
  | .data _ => false
  | .fieldCrc _ _ => false
  | .disregard _ => false

/-! ## The bytes of a row -/

/-- R142: the two bytes of an instruction. -/
def instructionBytes (isRead : Bool) (chip : BitVec 2) (start : HostAddr) : Byte × Byte :=
  (BitVec.ofBool isRead ++ chip ++ start.extractLsb' 8 5, start.extractLsb' 0 8)

/-- R142, R151: an instruction phase for this part with its host CRC byte where one is in force. -/
def State.clockInstruction (s : State) (isRead : Bool) (start : HostAddr) : State :=
  let sdi := instructionBytes isRead s.port.chipCode start
  let s1 := (s.clockByte sdi.1).clockByte sdi.2
  match s1.port.phase with
  | .hostCrc _ _ _ => s1.clockByte (crc8 instructionSeed [sdi.1, sdi.2])
  | _ => s1

/-- The access in which a row transfers its bytes: the one in progress, or one that the row begins, in a frame of its own when CSN is high. -/
def State.openRow (s : State) (isRead : Bool) (start : HostAddr) : State :=
  match s.port.phase with
  | .data _ => s
  | _ => s.openFrame.clockInstruction isRead start

/-- R151: one byte of a field, and after the last one the CRC byte where it is in force: the host's, or the right one where the row gives none. -/
def State.clockFieldByte (crc : Option Byte) (s : State) (sdi : Byte) : State :=
  match (s.clockByte sdi).port.phase with
  | .fieldCrc _ t => (s.clockByte sdi).clockByte (crc.getD t.crc)
  | _ => s.clockByte sdi

/-- The end of a frame that a row made of its own: CSN rises, unless a soft reset was requested, which takes effect at CSN_RISE (R154). -/
def State.closeRow (s : State) (own : Bool) : State :=
  if own && !s.port.softReset then s.closeFrame [] else s

/-- A run of bytes written from an address on. -/
def State.hostWrite (s : State) (start : HostAddr) (sdi : List Byte) (crc : Option Byte) : State :=
  if s.admitsAt start false then
    (sdi.foldl (State.clockFieldByte crc) (s.openRow false start)).closeRow s.port.phase.isIdle
  else s

/-- R144: a field written whole, its bytes given from the lowest address on. -/
def State.writeField (s : State) (f : Field) (bytes : List Byte) : State :=
  s.hostWrite (f.first s.rowDirection) (orient s.rowDirection bytes) none

/-! ## The rows of a read that acts -/

/-- Marks the access in progress as a frame of its own, which ends with the row that completes the read. -/
def State.standAlone (s : State) (own : Bool) : State :=
  match s.port.phase with
  | .data a => s.setPhase (.data { a with alone := a.alone || own })
  | _ => s

/-- R144: the first byte of a field is read. -/
def State.latchRead (s : State) (f : Field) : State :=
  if s.admits f true then
    ((s.openRow true (f.first s.rowDirection)).standAlone s.port.phase.isIdle).clockByte 0
  else s

/-- R144, R151: the other bytes of a field whose read is in progress are read, with the part's CRC byte where it is in force. Without such a read there is nothing to complete (log 3). -/
def State.completeRead (s : State) (f : Field) : State :=
  match s.port.phase with
  | .data a =>
    match a.transfer with
    | some t =>
      if a.taken && a.isRead && t.field == f && !t.middle && !s.resetHeld && !s.port.softReset then
        ((List.replicate t.left 0).foldl (State.clockFieldByte none) s).closeRow a.alone
      else s
    | none => s
  | _ => s

end Sys2Proof.Machine
end

