-- ==== Sys2Proof/Machine/HostCommands.lean ====
section
/-! DEFINITION. The meanings of the host commands: each is a write of its code to the command code field (spec/08 R133, spec/10 Command arguments), taken when it is applied (State.writeCommandCode). -/

namespace Sys2Proof.Machine

/-- LOOKUP (R10). -/
def execLookup (s : State) : Host.Outcome State Fault Refusal :=
  .next (s.writeField .commandCode [0x01])

/-- READ_SLOT (R11). -/
def execReadSlot (s : State) : Host.Outcome State Fault Refusal :=
  .next (s.writeField .commandCode [0x02])

/-- INSERT (R12, R13). -/
def execInsert (s : State) : Host.Outcome State Fault Refusal :=
  .next (s.writeField .commandCode [0x03])

/-- AMEND (R14 to R17). -/
def execAmend (s : State) : Host.Outcome State Fault Refusal :=
  .next (s.writeField .commandCode [0x04])

/-- RETIRE (R19). -/
def execRetire (s : State) : Host.Outcome State Fault Refusal :=
  .next (s.writeField .commandCode [0x05])

/-- FIND (R20, R21). -/
def execFind (s : State) : Host.Outcome State Fault Refusal :=
  .next (s.writeField .commandCode [0x06])

/-- READ_NODE (R53). -/
def execReadNode (s : State) : Host.Outcome State Fault Refusal :=
  .next (s.writeField .commandCode [0x11])

/-- OFFER (R51, R52). -/
def execOffer (s : State) : Host.Outcome State Fault Refusal :=
  .next (s.writeField .commandCode [0x12])

/-- RETIRE_NODE (R66). -/
def execRetireNode (s : State) : Host.Outcome State Fault Refusal :=
  .next (s.writeField .commandCode [0x13])

/-- LOAD (R77). -/
def execLoad (s : State) : Host.Outcome State Fault Refusal :=
  .next (s.writeField .commandCode [0x21])

/-- SCHEDULE (R79, R80). -/
def execSchedule (s : State) : Host.Outcome State Fault Refusal :=
  .next (s.writeField .commandCode [0x22])

/-- UNSCHEDULE (R81). -/
def execUnschedule (s : State) : Host.Outcome State Fault Refusal :=
  .next (s.writeField .commandCode [0x23])

/-- ABORT (R138, R139). -/
def execAbort (s : State) : Host.Outcome State Fault Refusal :=
  .next (s.writeField .commandCode [abortCode])

/-- BAD_COMMAND (R140, R133): a write of the command code field with the code given; a code that does name a command is that command. -/
def execBadCommand (code : Byte) (s : State) : Host.Outcome State Fault Refusal :=
  .next (s.writeField .commandCode [code])

end Sys2Proof.Machine
end

