-- ==== Sys2Proof/Machine/HostFields.lean ====
section
/-! DEFINITION. The meanings of the rows that write one host field, and of the two reads that act (spec/09 R144, R145, R151 and the owners' rules). -/

namespace Sys2Proof.Machine

/-! ## Cycle and line settings -/

/-- RUN_SET_SOURCE (R89, R93): cycle control written with RUN set and mode SOURCE. -/
def execRunSetSource (s : State) : Host.Outcome State Fault Refusal :=
  .next (s.writeField .cycleControl [0x01])

/-- RUN_SET_FOLLOWER (R89, R97): cycle control written with RUN set and mode FOLLOWER. -/
def execRunSetFollower (s : State) : Host.Outcome State Fault Refusal :=
  .next (s.writeField .cycleControl [0x03])

/-- RUN_CLEAR_SOURCE (R89, R96): cycle control written with RUN clear and mode SOURCE. -/
def execRunClearSource (s : State) : Host.Outcome State Fault Refusal :=
  .next (s.writeField .cycleControl [0x00])

/-- RUN_CLEAR_FOLLOWER (R89, R101): cycle control written with RUN clear and mode FOLLOWER. -/
def execRunClearFollower (s : State) : Host.Outcome State Fault Refusal :=
  .next (s.writeField .cycleControl [0x02])

/-- CYCLE_CONTROL_WRITE (R89). -/
def execCycleControlWrite (value : Byte) (s : State) : Host.Outcome State Fault Refusal :=
  .next (s.writeField .cycleControl [value])

/-- CYCLE_PERIOD_WRITE (R90). -/
def execCyclePeriodWrite (value : Byte) (s : State) : Host.Outcome State Fault Refusal :=
  .next (s.writeField .cyclePeriod [value])

/-- LINE_RATE_WRITE (R104). -/
def execLineRateWrite (value : Byte) (s : State) : Host.Outcome State Fault Refusal :=
  .next (s.writeField .lineRate [value])

/-- ANSWER_GAP_WRITE (R116). -/
def execAnswerGapWrite (value : Byte) (s : State) : Host.Outcome State Fault Refusal :=
  .next (s.writeField .answerGap [value])

/-- ANSWER_RANGE_WRITE (R117). -/
def execAnswerRangeWrite (low high : Byte) (s : State) : Host.Outcome State Fault Refusal :=
  .next (s.writeField .answerRange [low, high])

/-! ## Event block and shared interface block -/

/-- EVENT_REGISTER_WRITE (R128). -/
def execEventRegisterWrite (value : Word16) (s : State) : Host.Outcome State Fault Refusal :=
  .next (s.writeField .eventRegister (bytes16 value))

/-- EVENT_MASK_WRITE (R129). -/
def execEventMaskWrite (value : Word16) (s : State) : Host.Outcome State Fault Refusal :=
  .next (s.writeField .eventMask (bytes16 value))

/-- INTERFACE_ERROR_FLAGS_WRITE (R152). -/
def execInterfaceErrorFlagsWrite (value : Word16) (s : State) : Host.Outcome State Fault Refusal :=
  .next (s.writeField .errorFlags (bytes16 value))

/-- INTERFACE_CONTROL_WRITE (R149). A value with both request marks is a soft reset request as well (R154). -/
def execInterfaceControlWrite (value : Byte) (s : State) : Host.Outcome State Fault Refusal :=
  .next (s.writeField .interfaceControl [value])

/-- SOFT_RESET_REQUEST (R154): the interface control field written with both request marks; the settings of the byte are taken with it. -/
def execSoftResetRequest (value : Byte) (s : State) : Host.Outcome State Fault Refusal :=
  .next (s.writeField .interfaceControl [value ||| 0xC0])

/-- LOOP_LENGTH_WRITE (R147). -/
def execLoopLengthWrite (value : Byte) (s : State) : Host.Outcome State Fault Refusal :=
  .next (s.writeField .loopLength [value])

/-- CRC_ENABLE_PAIR_WRITE (R150): as an access that starts at the pair; a stream started elsewhere that reaches it is discarded with READ-ONLY WRITE. -/
def execCrcEnablePairWrite (value : Byte) (s : State) : Host.Outcome State Fault Refusal :=
  .next (s.writeField .crcEnablePair [value])

/-! ## Any field -/

/-- The address at which a run of bytes that lie from `address` on is begun, in a direction (R146). -/
def runStart (d : Direction) (address : HostAddr) (length : Nat) : HostAddr :=
  match d with
  | .ascending => address
  | .descending => address + BitVec.ofNat 13 (length - 1)

/-- REGISTER_WRITE (R144): bytes written from an address on, given from the lowest address, with the host's CRC byte after each field where it is in force. A run that is not one whole field is what the host serial port makes of it (R145). -/
def execRegisterWrite (address : HostAddr) (bytes : List Byte) (crc : Byte) (s : State) :
    Host.Outcome State Fault Refusal :=
  .next (s.hostWrite (runStart s.rowDirection address bytes.length) (orient s.rowDirection bytes) (some crc))

/-! ## Reads that act -/

/-- TAKE_FIELD_LATCH (R122): the first byte, lowest or highest, is sent. -/
def execTakeFieldLatch (s : State) : Host.Outcome State Fault Refusal := .next (s.latchRead .takeField)

/-- TAKE_FIELD_COMPLETION (R123): the other bytes are sent from the latch, and the take completes. -/
def execTakeFieldCompletion (s : State) : Host.Outcome State Fault Refusal := .next (s.completeRead .takeField)

/-- DAMAGED_COUNT_READ_LATCH (R111). -/
def execDamagedCountReadLatch (s : State) : Host.Outcome State Fault Refusal := .next (s.latchRead .damagedCount)

/-- DAMAGED_COUNT_READ_COMPLETION (R111). -/
def execDamagedCountReadCompletion (s : State) : Host.Outcome State Fault Refusal := .next (s.completeRead .damagedCount)

end Sys2Proof.Machine
end

