-- ==== Sys2Proof/Machine/Resets.lean ====
section
/-! DEFINITION. Power-on reset, the RESET pin and the end of the start-up clear (spec/09 R154, R155, spec/06 R118, spec/07 R130). -/

namespace Sys2Proof.Machine

/-- POWER_ON_RESET (R154): every block at its reset values, the chip code sampled from the straps, CSN high and RSTN not held (log 20). -/
def execPowerOnReset (straps : BitVec 2) (s : State) : Host.Outcome State Fault Refusal :=
  .next (s.resetWith { HostPort.reset with chipCode := straps })

/-- A frame that is open stays open with its rest disregarded (DEDUCED, log 20). -/
def PortPhase.interrupted : PortPhase → PortPhase
  | .idle => .idle
  | .between => .disregard none
  | .instruction _ _ => .disregard none
  | .hostCrc _ _ _ => .disregard none
  | .data _ => .disregard none
  | .fieldCrc _ _ => .disregard none
  | .disregard _ => .disregard none

/-- R118: the driver is released and the frame being sent cut short; the answer in flight, the beacons and the frame in reception are discarded. -/
def LineController.released (l : LineController) : LineController :=
  { l with state := .listen, answer := none, beacon := none, held := none }

/-- RESET_PIN_ASSERT (R154, R118, R130; log 8): while RSTN is low the part is held; every latched event is clear, the mask is the reset mask, and a soft reset that was awaited gives way to the pin reset. -/
def execResetPinAssert (s : State) : Host.Outcome State Fault Refusal :=
  .next { s.dropLatches with
    resetHeld := true
    line := (s.dropLatches.line).released
    events := .reset
    mask := maskReset
    port := { s.port with phase := s.port.phase.interrupted, softReset := false } }

/-- RESET_PIN_RELEASE (R154): the reset event of the RESET pin; the chip code is sampled. -/
def execResetPinRelease (straps : BitVec 2) (s : State) : Host.Outcome State Fault Refusal :=
  .next (s.resetWith { HostPort.reset with chipCode := straps, phase := s.port.phase.interrupted })

/-- START_UP_CLEAR_COMPLETION (R155, R130): NOT READY clears and RESET NOTED is set. Without a start-up clear nothing completes (log 3). -/
def execStartUpClearCompletion (s : State) : Host.Outcome State Fault Refusal :=
  .next (unlessHeld (fun s => if s.clearing then { s with clearing := false }.raise .resetNoted else s) s)

end Sys2Proof.Machine
end

