-- ==== Sys2Proof/Machine/Dispatch.lean ====
section
/-! DEFINITION. Each operation to its meaning, one arm a row of the table. -/

namespace Sys2Proof.Machine

/-- The effect of an operation on everything but the queue. -/
def exec (i : Instr) (s : State) : Host.Outcome State Fault Refusal :=
  match i with
  | .lookup => Sys2Proof.Machine.execLookup s
  | .readSlot => Sys2Proof.Machine.execReadSlot s
  | .insert => Sys2Proof.Machine.execInsert s
  | .amend => Sys2Proof.Machine.execAmend s
  | .retire => Sys2Proof.Machine.execRetire s
  | .find => Sys2Proof.Machine.execFind s
  | .findVisit => Sys2Proof.Machine.execFindVisit s
  | .readNode => Sys2Proof.Machine.execReadNode s
  | .offer => Sys2Proof.Machine.execOffer s
  | .retireNode => Sys2Proof.Machine.execRetireNode s
  | .cascadeVisit => Sys2Proof.Machine.execCascadeVisit s
  | .load => Sys2Proof.Machine.execLoad s
  | .schedule => Sys2Proof.Machine.execSchedule s
  | .unschedule => Sys2Proof.Machine.execUnschedule s
  | .abort => Sys2Proof.Machine.execAbort s
  | .badCommand code => Sys2Proof.Machine.execBadCommand code s
  | .poll p => Sys2Proof.Machine.execPoll p s
  | .announce body => Sys2Proof.Machine.execAnnounce body s
  | .beacon number => Sys2Proof.Machine.execBeacon number s
  | .ignoredAnswerKind kind => Sys2Proof.Machine.execIgnoredAnswerKind kind s
  | .damagedFrame cause => Sys2Proof.Machine.execDamagedFrame cause s
  | .lineSilence => Sys2Proof.Machine.execLineSilence s
  | .collision => Sys2Proof.Machine.execCollision s
  | .answerGapExpiry => Sys2Proof.Machine.execAnswerGapExpiry s
  | .levelSendCompletion => Sys2Proof.Machine.execLevelSendCompletion s
  | .answerSendCompletion => Sys2Proof.Machine.execAnswerSendCompletion s
  | .assignSendCompletion => Sys2Proof.Machine.execAssignSendCompletion s
  | .beaconSendCompletion => Sys2Proof.Machine.execBeaconSendCompletion s
  | .cycleTimerExpiry => Sys2Proof.Machine.execCycleTimerExpiry s
  | .beaconDeadlineExpiry => Sys2Proof.Machine.execBeaconDeadlineExpiry s
  | .runSetSource => Sys2Proof.Machine.execRunSetSource s
  | .runSetFollower => Sys2Proof.Machine.execRunSetFollower s
  | .runClearSource => Sys2Proof.Machine.execRunClearSource s
  | .runClearFollower => Sys2Proof.Machine.execRunClearFollower s
  | .cyclePeriodWrite value => Sys2Proof.Machine.execCyclePeriodWrite value s
  | .lineRateWrite value => Sys2Proof.Machine.execLineRateWrite value s
  | .answerGapWrite value => Sys2Proof.Machine.execAnswerGapWrite value s
  | .answerRangeWrite low high => Sys2Proof.Machine.execAnswerRangeWrite low high s
  | .eventRegisterWrite value => Sys2Proof.Machine.execEventRegisterWrite value s
  | .eventMaskWrite value => Sys2Proof.Machine.execEventMaskWrite value s
  | .interfaceErrorFlagsWrite value => Sys2Proof.Machine.execInterfaceErrorFlagsWrite value s
  | .interfaceControlWrite value => Sys2Proof.Machine.execInterfaceControlWrite value s
  | .softResetRequest value => Sys2Proof.Machine.execSoftResetRequest value s
  | .loopLengthWrite value => Sys2Proof.Machine.execLoopLengthWrite value s
  | .crcEnablePairWrite value => Sys2Proof.Machine.execCrcEnablePairWrite value s
  | .registerWrite address bytes crc => Sys2Proof.Machine.execRegisterWrite address bytes crc s
  | .takeFieldLatch => Sys2Proof.Machine.execTakeFieldLatch s
  | .takeFieldCompletion => Sys2Proof.Machine.execTakeFieldCompletion s
  | .damagedCountReadLatch => Sys2Proof.Machine.execDamagedCountReadLatch s
  | .damagedCountReadCompletion => Sys2Proof.Machine.execDamagedCountReadCompletion s
  | .instructionPhase sdi => Sys2Proof.Machine.execInstructionPhase sdi s
  | .csnRise tail => Sys2Proof.Machine.execCsnRise tail s
  | .powerOnReset straps => Sys2Proof.Machine.execPowerOnReset straps s
  | .resetPinAssert => Sys2Proof.Machine.execResetPinAssert s
  | .resetPinRelease straps => Sys2Proof.Machine.execResetPinRelease straps s
  | .startUpClearCompletion => Sys2Proof.Machine.execStartUpClearCompletion s
  | .startMarker following => Sys2Proof.Machine.execStartMarker following s
  | .cycleControlWrite value => Sys2Proof.Machine.execCycleControlWrite value s

end Sys2Proof.Machine
end

