-- ==== Sys2Proof/Machine/Step.lean ====
section
/-! DEFINITION. One step: the operation at the front of the queue (log 2). -/

namespace Sys2Proof.Machine

/-- Takes the operation at the front of the queue and runs it on the state with the queue's rest; on an empty queue the part idles (DESIGN CHOICE, log 2). -/
def step (s : State) : Host.Outcome State Fault Refusal :=
  match s.pending with
  | [] => .next s
  | c :: rest => exec c { s with pending := rest }

/-- The state with the operation that a word spells at the front of its queue; no word spells one. -/
def State.withFetchWord (s : State) (nbits w : Nat) : State :=
  match decodeTableWord nbits w with
  | some c => { s with pending := c :: s.pending }
  | none => s

end Sys2Proof.Machine
end

