-- ==== Sys2Proof/Safety.lean ====
section
/-! DEFINITION. The laws of the part's state that the spec states about the whole machine, each as a predicate on the state. A run is safe when every state of it keeps them. -/

namespace Sys2Proof.Machine

/-- R88, R90, R98: RUN clear is STOPPED; each other cycle state belongs to its mode; the timer runs exactly in RUNNING and the deadline exactly in LOCKED and COASTING; the period lies from 2 to 200. -/
def State.CycleLaw (s : State) : Prop :=
  (s.cycle.run = false ↔ s.cycle.state = .stopped)
  ∧ (s.cycle.state = .running ∨ s.cycle.state = .clashed → s.cycle.mode = .source)
  ∧ (s.cycle.state = .seeking ∨ s.cycle.state = .locked ∨ s.cycle.state = .coasting → s.cycle.mode = .follower)
  ∧ (s.cycle.timer.isSome = true ↔ s.cycle.state = .running)
  ∧ (s.cycle.deadline.isSome = true ↔ s.cycle.state = .locked ∨ s.cycle.state = .coasting)
  ∧ 2 ≤ s.cycle.period.toNat ∧ s.cycle.period.toNat ≤ 200

/-- R78: at most six entries, each with a mask that is not 0, no two with one target. -/
def State.ScheduleLaw (s : State) : Prop :=
  s.schedule.length ≤ 6 ∧ (∀ e ∈ s.schedule, e.mask ≠ 0) ∧ (s.schedule.map (·.target)).Nodup

/-- R5: delivered only while sent, sent only while the live level is present. -/
def Record.Delivery (r : Record) : Prop :=
  (r.delivered = true → r.sent = true) ∧ (r.sent = true → r.liveLevel.isSome = true)

/-- R18, R41: a LEVEL answer that is not void names a record that holds a live level. -/
def State.AnswerBacked (s : State) : Prop :=
  ∀ a ∈ s.line.answer, a.voided = false →
    match a.answer with
    | .level _ i generation _ _ _ =>
      (match (s.slot i).record with
       | some r => r.generation = generation ∧ r.liveLevel.isSome = true
       | none => False)
    | .wait _ _ _ _ => True
    | .halt _ _ _ _ => True
    | .refuse _ _ => True
    | .assign _ _ => True

/-- R5 in every slot, with what the answer in flight relies on. -/
def State.DeliveryLaw (s : State) : Prop :=
  (∀ i : SlotNo, ∀ r ∈ (s.slot i).record, r.Delivery) ∧ s.AnswerBacked

/-- R48: what the fields of a node entry hold in each state. -/
def NodeEntry.Lawful (e : NodeEntry) : Prop :=
  e.silence ≤ 255 ∧ (∀ k ∈ e.offerRemaining, 1 ≤ k ∧ k ≤ 4095) ∧
    match e.state with
    | .free => e = .reset
    | .offered => e.identity.isSome = true ∧ e.confirmRemaining = 0 ∧ e.silence = 0
    | .assigned =>
      e.identity.isSome = true ∧ 1 ≤ e.confirmRemaining ∧ e.confirmRemaining ≤ 8 ∧ e.silence = 0
    | .bound => e.identity.isSome = true ∧ e.confirmRemaining = 0
    | .silent => e.identity.isSome = true ∧ e.confirmRemaining = 0
    | .retiring => e.identity.isSome = true

/-- R48, R63 in every entry. -/
def State.NodeLaw (s : State) : Prop := ∀ n : NodeNo, (s.node n).Lawful

/-- R48: no two entries that are not FREE hold the same identity. -/
def State.IdentityLaw (s : State) : Prop :=
  ∀ n m : NodeNo, (s.node n).state ≠ .free → (s.node m).state ≠ .free →
    (s.node n).identity.isSome = true → (s.node n).identity = (s.node m).identity → n = m

/-- R48, R117: the answer range lies in 1 to 239, low not above high, and holds every entry that is not FREE. -/
def State.RangeLaw (s : State) : Prop :=
  1 ≤ s.line.rangeLow.toNat ∧ s.line.rangeLow.toNat ≤ s.line.rangeHigh.toNat ∧ s.line.rangeHigh.toNat ≤ 239
  ∧ ∀ n : NodeNo, (s.node n).state ≠ .free →
      s.line.rangeLow.toNat ≤ nodeAddress n ∧ nodeAddress n ≤ s.line.rangeHigh.toNat

/-- The reasons of the record in a slot, none for an empty slot (R119). -/
def State.recordReasons (s : State) (i : SlotNo) : RecordReasons :=
  match (s.slot i).record with
  | some r => r.reasons
  | none => .none

/-- R119: a subject is on the attention list exactly when its reason set is not empty, and at most once. -/
def State.AttentionLaw (s : State) : Prop :=
  (∀ i : SlotNo, Subject.record i ∈ s.attention ↔ (s.recordReasons i).isEmpty = false)
  ∧ (∀ n : NodeNo, Subject.node n ∈ s.attention ↔ (s.node n).reasons.isEmpty = false)
  ∧ s.attention.Nodup

/-- R112, R114: an answer is in flight exactly while the controller is in GAP or SENDING for it; a beacon's GAP or SENDING has a pending beacon; no beacon waits in LISTEN; a request is held only while a beacon is SENDING. -/
def State.LineLaw (s : State) : Prop :=
  match s.line.state with
  | .listen => s.line.answer = none ∧ s.line.beacon = none ∧ s.line.held = none
  | .receiving _ => s.line.answer = none ∧ s.line.held = none
  | .gap .answer _ _ => s.line.answer.isSome = true ∧ s.line.held = none
  | .gap .beacon _ _ => s.line.answer = none ∧ s.line.beacon.isSome = true ∧ s.line.held = none
  | .sending .answer _ _ _ => s.line.answer.isSome = true ∧ s.line.held = none
  | .sending .beacon _ _ _ => s.line.answer = none ∧ s.line.beacon.isSome = true

/-- R104, R111, R116: the line settings and the damaged-frame count stay in their ranges. -/
def State.SettingsLaw (s : State) : Prop :=
  2 ≤ s.line.gap.toNat ∧ s.line.gap.toNat ≤ 15 ∧ s.line.damaged ≤ 65535
  ∧ ∀ d ∈ s.line.damagedLatch, d.since ≤ 65535

/-- The number of occupied slots whose record meets a condition. -/
def State.countRecords (s : State) (p : Record → Bool) : Nat :=
  s.directory.slots.toList.countP (fun x => match x.record with
    | some r => p r
    | none => false)

/-- R2, R3: the key index holds exactly the keys of the occupied slots, each once, and a record carries its slot's generation. -/
def State.IndexLaw (s : State) : Prop :=
  (∀ i : SlotNo, ∀ r ∈ (s.slot i).record,
      (⟨r.key, i⟩ : IndexEntry) ∈ s.directory.index ∧ r.generation = (s.slot i).generation)
  ∧ (∀ e ∈ s.directory.index,
      match (s.slot e.slot).record with
      | some r => r.key = e.key
      | none => False)
  ∧ (s.directory.index.map (·.key)).Nodup

/-- R1, R49: the occupancy count and every record count are what they count. -/
def State.CountLaw (s : State) : Prop :=
  s.directory.occupancy = s.countRecords (fun _ => true)
  ∧ ∀ n : NodeNo, (s.node n).recordCount = s.countRecords (fun r => r.node == n)

/-- R66, R69: while a cascade runs its entry is RETIRING and still holds a record. -/
def State.CascadeLaw (s : State) : Prop :=
  match s.command.state with
  | .idle => True
  | .finding _ => True
  | .cascading n _ => (s.node n).state = .retiring ∧ (s.node n).recordCount ≠ 0

/-! ## What statements about one operation share -/

/-- The field that a row writes, for the rows that are a write of one field (spec/10 Host address map). -/
def writtenField : Instr → Option Field
  | .lookup | .readSlot | .insert | .amend | .retire | .find | .readNode | .offer | .retireNode | .load | .schedule
  | .unschedule | .abort | .badCommand _ => some .commandCode
  | .cyclePeriodWrite _ => some .cyclePeriod
  | .lineRateWrite _ => some .lineRate
  | .answerGapWrite _ => some .answerGap
  | .answerRangeWrite _ _ => some .answerRange
  | .runSetSource | .runSetFollower | .runClearSource | .runClearFollower | .cycleControlWrite _ => some .cycleControl
  | .eventRegisterWrite _ => some .eventRegister
  | .eventMaskWrite _ => some .eventMask
  | .interfaceErrorFlagsWrite _ => some .errorFlags
  | .interfaceControlWrite _ | .softResetRequest _ => some .interfaceControl
  | .loopLengthWrite _ => some .loopLength
  | .crcEnablePairWrite _ => some .crcEnablePair
  | .registerWrite address _ _ => some (fieldAt address)
  | _ => none

/-- The field that a row reads, for the rows of the two reads that act. -/
def readingField : Instr → Option Field
  | .takeFieldLatch | .takeFieldCompletion => some .takeField
  | .damagedCountReadLatch | .damagedCountReadCompletion => some .damagedCount
  | _ => none

/-- R147: none of the next `length` bytes but the last is one after which the address returns to the start. -/
def Access.uncut (a : Access) (length : Nat) : Bool :=
  (List.range length).all (fun k => k == 0 || a.mode == .singleField || a.loop == 0 || (a.count + k) % a.loop != 0)

/-- R142, R147, R149: the access in which a row transfers its bytes: the one in progress, or one that the row begins with the settings in force. -/
def State.rowAccess (s : State) (isRead : Bool) (start : HostAddr) : Access :=
  match s.port.phase with
  | .data a => a
  | _ =>
    { taken := true, isRead := isRead, sharedOnly := false, start := start, addr := start, count := 0
      mode := s.port.config.mode, direction := s.port.config.direction, loop := s.port.loopLength.toNat
      keepLoop := s.port.config.keepLoop, duringClear := s.accessInClear, loopWritten := false, alone := false
      transfer := none }

/-- R142, R144, R147: the part takes a write (or a read) of this field now, and the field is transferred whole: a shared write has not left the shared block, and no loop returns inside the field. -/
def State.FieldNext (s : State) (f : Field) (isRead : Bool) : Prop :=
  s.admits f isRead = true
  ∧ ((s.rowAccess isRead (f.first s.rowDirection)).sharedOnly = true → sharedAddr f.base = true)
  ∧ (s.rowAccess isRead (f.first s.rowDirection)).uncut f.length = true

/-- R155: the same, not as an access of the start-up clear. -/
def State.HostReady (s : State) (f : Field) (isRead : Bool) : Prop := s.FieldNext f isRead ∧ s.accessInClear = false

/-- R133: a command code can be written and the command unit is IDLE. -/
def State.CommandReady (s : State) : Prop :=
  s.HostReady .commandCode false ∧ s.command.state = .idle

/-- R118: the part receives and the line controller is in LISTEN. -/
def State.Listening (s : State) : Prop := s.receives = true ∧ s.line.state = .listen

/-- R150: whether an access is a write that starts at the CRC enable pair. -/
def Access.atPair (a : Access) : Bool := !a.isRead && a.start == 0x0002

/-- R142, R150, R151, R153: the host serial port when a row transfers its first data byte. A row that begins an access has sent its instruction phase with the host CRC byte where one is in force; one that finds CSN high has opened a frame of its own (DESIGN CHOICE, log 4). -/
def State.rowPort (s : State) (isRead : Bool) (start : HostAddr) : HostPort :=
  let begun : Bool → List Sdo → StatusBytes → HostPort := fun crc before st =>
    { s.port with
      frameCrc := crc
      sdo := before
        ++ (if s.port.config.statusSend then [.status st.first, .byte st.second] else [.highZ, .highZ])
        ++ (if crc && !(s.rowAccess isRead start).atPair then [.highZ] else []) }
  match s.port.phase with
  | .data _ => s.port
  | .idle => begun s.port.crcOn [] s.statusBytes
  | .between => begun s.port.frameCrc s.port.sdo s.statusBytes
  | .instruction _ st => begun s.port.frameCrc s.port.sdo st
  | _ => s.port

/-- R146, R147: the access behind the field `f`, of which `bytes` bytes were still to come. -/
def Access.past (a : Access) (f : Field) (bytes : Nat) : Access :=
  { a with
    count := a.count + bytes
    addr :=
      if a.mode = .streaming ∧ a.loop ≠ 0 ∧ (a.count + bytes) % a.loop = 0 then a.start
      else match a.direction with
        | .ascending => f.base + BitVec.ofNat 13 f.length
        | .descending => if f.base = 0 then 0x1BFF else f.base - 1 }

/-- R143, R147, R148, R150, R153, R154: the host serial port behind a field in the state `u`, with the access `a` behind it. After a soft reset request the rest of the frame is disregarded. A row that is a frame of its own ends it. In single-field mode the next byte begins an instruction phase. After the CRC enable pair, in streaming mode, the rest is disregarded. Where an access that the part took ends, the loop length becomes 0 unless it is kept. -/
def State.portBehind (u : State) (a : Access) (own : Bool) : HostPort :=
  let left := if !a.taken || a.keepLoop || a.loopWritten then u.port.loopLength else 0
  if u.port.softReset then { u.port with phase := .disregard (some a) }
  else if own then { u.port with phase := .idle, loopLength := left }
  else match a.mode with
    | .singleField => { u.port with phase := .between, loopLength := left }
    | .streaming => { u.port with phase := if a.atPair then .disregard (some a) else .data a }

/-- The host serial port after a row that wrote the field `f` from the state `s`, with `t` what the write leaves of everything else; `applied` tells a write that was applied from one that was turned away. SDO is at high impedance for the bytes of the field and for its CRC byte (R146). -/
def State.portAfter (s : State) (f : Field) (applied : Bool) (t : State) : HostPort :=
  let start := f.first s.rowDirection
  let a := s.rowAccess false start
  let p := s.rowPort false start
  let bytes := f.length + (if p.frameCrc && !a.atPair then 1 else 0)
  State.portBehind { t with port := { t.port with frameCrc := p.frameCrc, sdo := p.sdo ++ List.replicate bytes .highZ } }
    { a.past f f.length with loopWritten := a.loopWritten || (applied && f == .loopLength) } s.port.phase.isIdle

/-- The operation `i` writes a field, and takes `s` to `t` with the host serial port behind the field. -/
def Leads (s : State) (i : Instr) (t : State) : Prop :=
  ∃ f, writtenField i = some f ∧ exec i s = .next { t with port := s.portAfter f true t }

/-- The same, for a write that is turned away at the port and not applied. -/
def TurnedAway (s : State) (i : Instr) (t : State) : Prop :=
  ∃ f, writtenField i = some f ∧ exec i s = .next { t with port := s.portAfter f false t }

/-- R144: the host serial port after the first byte of a read of the field `f`, whose bytes in the order of transfer are `head` and `rest`. -/
def State.portLatched (s : State) (f : Field) (head : Byte) (rest : List Byte) : HostPort :=
  let start := f.first s.rowDirection
  let a := s.rowAccess true start
  let p := s.rowPort true start
  { p with
    sdo := p.sdo ++ [.byte head]
    phase := .data { a with
      count := a.count + 1
      addr := match a.direction with
        | .ascending => start + 1
        | .descending => start - 1
      alone := a.alone || s.port.phase.isIdle
      transfer := some ⟨f, false, f.base, f.length - 1, rest, [head]⟩ } }

/-- R144, R147: the access `a`, which the part takes, stands in a read of the field `f` begun at its first byte, with the transfer `t`, and no loop returns before its end. -/
def State.Reading (s : State) (f : Field) (a : Access) (t : Transfer) : Prop :=
  s.resetHeld = false ∧ s.port.softReset = false ∧ s.port.phase = .data a ∧ a.taken = true ∧ a.isRead = true
  ∧ a.sharedOnly = false ∧ a.transfer = some t ∧ t.field = f ∧ t.middle = false
  ∧ 1 ≤ t.left ∧ t.left < f.length ∧ t.latch.length = t.left ∧ a.uncut t.left = true
  ∧ a.addr = (match a.direction with
      | .ascending => f.base + BitVec.ofNat 13 (f.length - t.left)
      | .descending => f.base + BitVec.ofNat 13 (t.left - 1))

/-- R144, R151: the host serial port after the last byte of that read, with `u` what the read leaves of everything else: SDO has carried the rest of the latch, and the part's CRC byte where CRC is on. -/
def State.portRead (s : State) (f : Field) (a : Access) (t : Transfer) (u : State) : HostPort :=
  let crc : List Sdo := if s.port.frameCrc then [.byte (crc8 (t.lowest.setWidth 8) (t.crossed ++ t.latch))] else []
  let behind := { a.past f t.left with transfer := none }
  State.portBehind { u with port := { u.port with sdo := s.port.sdo ++ t.latch.map .byte ++ crc } } behind a.alone

/-- R150: whether a row that writes the CRC enable pair is an access that starts there. -/
def State.startsAtPair (s : State) : Bool := (s.rowAccess false (Field.first .crcEnablePair s.rowDirection)).atPair

/-- R150, R151: whether the host's CRC byte after a field matches, or none is in force. -/
def State.fieldCrcMatches (s : State) (f : Field) (bytes : List Byte) (crc : Byte) : Bool :=
  !((s.rowPort false (f.first s.rowDirection)).frameCrc && !(s.rowAccess false (f.first s.rowDirection)).atPair)
    || crc8 (f.base.setWidth 8) (orient s.rowDirection bytes) == crc

/-- R135: the state in which a command has ended with this code, image and result, everything else as it was. -/
def State.ended (s : State) (code : Byte) (image : Vector Byte 16) (result : CommandResult) : State :=
  { s with
    command := { s.command with code := code, image := image, result := result, state := .idle }
    events := { s.events with done := true } }

/-- R10, R12: the command argument names this key. -/
def State.ArgKey (s : State) (k : Key) : Prop :=
  (s.command.argByte 0).toNat = nodeAddress k.node ∧ (s.command.argByte 1).toNat = k.channel.toNat

/-- R10, R12: the address and the channel in the command argument are in range. -/
def State.ArgKeyInRange (s : State) : Prop :=
  1 ≤ (s.command.argByte 0).toNat ∧ (s.command.argByte 0).toNat ≤ 239 ∧ (s.command.argByte 1).toNat ≤ 15

/-- R3: no occupied slot holds a record with this key. -/
def State.KeyAbsent (s : State) (k : Key) : Prop := ∀ i : SlotNo, ∀ r ∈ (s.slot i).record, r.key ≠ k

/-- R18: the removal of the record `r` in slot `i`, as one event. -/
def State.afterRemoval (s : State) (i : SlotNo) (r : Record) : State :=
  { s with
    directory :=
      { slots := s.directory.slots.set i.val { s.slot i with record := none }
        index := s.directory.index.filter (·.key != r.key)
        occupancy := s.directory.occupancy - 1 }
    nodes := s.nodes.set r.node.val { s.node r.node with recordCount := (s.node r.node).recordCount - 1 }
    attention := s.attention.filter (· != .record i)
    take := s.take.map (·.retire (.record i))
    line := { s.line with answer := s.line.answer.map (·.voidBy i) } }

/-- R50: the entry's return to FREE, as one event. -/
def State.afterRelease (s : State) (n : NodeNo) : State :=
  { s with
    nodes := s.nodes.set n.val .reset
    attention := s.attention.filter (· != .node n)
    take := s.take.map (·.retire (.node n)) }

/-- R112, R116: the line controller with an answer taken. -/
def LineController.answering (l : LineController) (a : Answer) : LineController :=
  { l with answer := some ⟨a, false⟩, state := .gap .answer l.gap.toNat l.rate }

/-- R115: the line controller after a clash or the clearing of RUN. -/
def LineController.cancelled (l : LineController) : LineController :=
  match l.state with
  | .sending .beacon _ _ _ => { l with held := none }
  | .gap .beacon _ _ => { l with state := .listen, beacon := none, held := none }
  | _ => { l with beacon := none, held := none }

/-- R94, R114: the line controller after a beacon request. -/
def LineController.requested (l : LineController) (number : Word16) : LineController :=
  match l.state with
  | .sending .beacon _ _ _ => { l with held := some number }
  | .listen => { l with beacon := some number, state := .gap .beacon l.gap.toNat l.rate }
  | _ => { l with beacon := some number }

/-- R114: the line controller back in LISTEN, where a pending beacon is taken at once. -/
def LineController.resting (l : LineController) : LineController :=
  { l with state := if l.beacon.isSome then .gap .beacon l.gap.toNat l.rate else .listen }

/-- R24: the address lies in the answer range and the cycle unit is not STOPPED. -/
def State.TakesPolls (s : State) (address : Byte) : Prop :=
  s.cycle.state ≠ .stopped ∧ s.line.rangeLow.toNat ≤ address.toNat ∧ address.toNat ≤ s.line.rangeHigh.toNat

/-- R14 checks 1 to 4, R157: a check of AMEND's slot, select set, group or permit fails. -/
def State.AmendArgumentsBad (s : State) : Prop :=
  let w := s.command.window
  384 ≤ s.command.argWord.toNat
  ∨ (∀ b < 7, w.select.getLsbD b = false)
  ∨ (w.select.getLsbD 0 = true ∧ w.select.getLsbD 1 = true)
  ∨ (w.select.getLsbD 5 = true ∧ w.select.getLsbD 6 = true)
  ∨ (w.select.getLsbD 3 = true ∧ 7 < w.group.toNat)
  ∨ (w.select.getLsbD 4 = true ∧ 1 < w.permit.toNat)

/-- R12 check 1, R157: INSERT's address, channel, group, report permitted and staged-present are all in range. -/
def State.InsertArgumentsGood (s : State) : Prop :=
  s.ArgKeyInRange ∧ s.command.window.group.toNat ≤ 7 ∧ s.command.window.permit.toNat ≤ 1
  ∧ s.command.window.select.toNat ≤ 1

/-- R73: a load with this mask promotes the record. -/
def promotes (mask : Byte) (r : Record) : Bool := mask.getLsbD r.group.toNat && r.stagedLevel.isSome

/-- R73, R74: a load as one event on every slot. -/
def State.afterLoad (s : State) (mask : Byte) : State :=
  { s with directory := { s.directory with
      slots := mapAll (fun x => { x with record := x.record.map (fun r =>
        if promotes mask r then
          { r with liveLevel := r.stagedLevel, stagedLevel := none, liveSeq := !r.liveSeq, sent := false, delivered := false }
        else r) }) s.directory.slots } }

/-- R28: the node gate lets a POLL of the node pass. -/
def NodeEntry.PassesGate (e : NodeEntry) : Prop := e.state = .assigned ∨ e.state = .bound ∨ e.state = .silent

/-- R28, R29, R120, R122: the node gate passed by a POLL with this status byte. -/
def State.afterGate (s : State) (n : NodeNo) (status : Option Byte) : State :=
  let e := s.node n
  let raised : NodeReasons :=
    { NodeReasons.none with
      bound := e.state == .assigned
      returned := e.state == .silent
      status := status.isSome && e.status != status }
  { s with
    nodes := s.nodes.set n.val
      { e with
        state := .bound
        silence := 0
        confirmRemaining := if e.state = .assigned then 0 else e.confirmRemaining
        status := if status.isSome then status else e.status
        reasons := e.reasons.union raised }
    attention := if e.reasons.isEmpty && !raised.isEmpty then s.attention ++ [.node n] else s.attention
    take := s.take.map (·.noteNode n raised) }

/-- R62 to R64: the reasons a cycle start raises for an entry. -/
def NodeEntry.raisedAtCycle (e : NodeEntry) : NodeReasons :=
  { NodeReasons.none with
    offerExpired := e.state == .offered && e.offerRemaining == some 1
    unconfirmed := e.state == .assigned && e.confirmRemaining == 1
    silent := e.state == .bound && e.lapseLimit != 0 && min (e.silence + 1) 255 == e.lapseLimit.toNat }

/-- R62 to R65: an entry after a cycle start. -/
def NodeEntry.afterCycle (e : NodeEntry) : NodeEntry :=
  let e' := { e with reasons := e.reasons.union e.raisedAtCycle }
  match e.state with
  | .free => e
  | .retiring => e
  | .offered =>
    { e' with offerRemaining := if e.offerRemaining = some 1 then none else e.offerRemaining.map (· - 1) }
  | .assigned =>
    { e' with
      confirmRemaining := e.confirmRemaining - 1
      state := if e.confirmRemaining = 1 then .offered else .assigned }
  | .bound =>
    { e' with
      silence := min (e.silence + 1) 255
      state := if e.raisedAtCycle.silent then .silent else .bound }
  | .silent => { e' with silence := min (e.silence + 1) 255 }

/-- A frame of the line as the bytes that arrive on it (R105), none with a framing fault. -/
def onLine (wire : List Byte) : List LineByte := wire.map (fun b => ⟨b, false⟩)

end Sys2Proof.Machine
end

