-- ==== Sys2Proof/WellFormed.lean ====
section
/-! DEFINITION. The operands with which an operation stands for its row. The machine gives every operation a meaning, well-formed or not. -/

namespace Sys2Proof

/-- spec/10, Command arguments: the codes that name a command. -/
def commandCodes : List Byte :=
  [0x01, 0x02, 0x03, 0x04, 0x05, 0x06, 0x11, 0x12, 0x13, 0x21, 0x22, 0x23, 0x3F]

/-- R154: SOFT RESET and SOFT RESET CONFIRM both set. -/
def bothResetMarks (value : Byte) : Bool := value.getLsbD 6 && value.getLsbD 7

/-- R140: BAD_COMMAND carries a code that names no command. R107: an ANNOUNCE body is 12 to 64 bytes long. R154, R149: the two reset marks tell SOFT_RESET_REQUEST from INTERFACE_CONTROL_WRITE. R144: REGISTER_WRITE carries a whole field. R143: fewer than eight bits follow the last whole byte. -/
def Instr.wellFormed : Instr → Bool
  | .badCommand code => !commandCodes.contains code
  | .announce body => 12 ≤ body.length && body.length ≤ 64
  | .interfaceControlWrite value => !bothResetMarks value
  | .softResetRequest value => bothResetMarks value
  | .registerWrite address bytes _ =>
    (Machine.fieldAt address).base == address && bytes.length == (Machine.fieldAt address).length
  | .csnRise tail => tail.length < 8
  | .lookup | .readSlot | .insert | .amend | .retire | .find | .findVisit | .readNode | .offer
  | .retireNode | .cascadeVisit | .load | .schedule | .unschedule | .abort => true
  | .poll _ | .beacon _ | .ignoredAnswerKind _ | .damagedFrame _ | .lineSilence | .collision
  | .answerGapExpiry | .levelSendCompletion | .answerSendCompletion | .assignSendCompletion
  | .beaconSendCompletion => true
  | .cycleTimerExpiry | .beaconDeadlineExpiry | .runSetSource | .runSetFollower | .runClearSource
  | .runClearFollower | .cyclePeriodWrite _ | .lineRateWrite _ | .answerGapWrite _
  | .answerRangeWrite _ _ | .cycleControlWrite _ => true
  | .eventRegisterWrite _ | .eventMaskWrite _ | .interfaceErrorFlagsWrite _ | .loopLengthWrite _
  | .crcEnablePairWrite _ | .takeFieldLatch | .takeFieldCompletion | .damagedCountReadLatch
  | .damagedCountReadCompletion | .instructionPhase _ => true
  | .powerOnReset _ | .resetPinAssert | .resetPinRelease _ | .startUpClearCompletion | .startMarker _ => true

end Sys2Proof
end

