-- ==== Sys2Proof/Certificates/Slice0/Obligations.lean ====
section
/-! DEFINITION. The statements for the provers, from the numbered rules of spec/. Where a statement says `Leads s i t`, the operation takes `s` to `t` with the host serial port behind the field that it writes (Sys2Proof/Safety.lean, portAfter), where a row begun with CSN high is a frame of its own (the model's choice, log 4); everything that `t` does not change is its frame. -/

section

open Sys2Proof Sys2Proof.Machine

/-! ## The machine -/

/-- R144, R7, R86, R121, R127, R131, R132, spec/10: what every field reads, with the layouts and codes of spec/10, in every state; and spec/10, Host address map, column "After reset", with the blocks' values after reset (R1, R2, R47, R78, R88, R118, R119). Pending, and the start-up clear in progress, are the model's (log 2, log 18). -/
def Obligations.ResetReadsAsTheAddressMap : Prop :=
  (∀ (s : State) (f : Field),
    let lo : Word16 → Byte := fun w => w.extractLsb' 0 8
    let hi : Word16 → Byte := fun w => w.extractLsb' 8 8
    let bit : Bool → BitVec 1 := BitVec.ofBool
    let number : Nat → List Byte := fun n => [lo (BitVec.ofNat 16 n), hi (BitVec.ofNat 16 n)]
    let identity : Identity → List Byte := fun v => (List.range 8).map (fun k => v.extractLsb' (8 * k) 8)
    let e := s.port.errors
    let interface := decide (e ≠ ⟨false, false, false, false, false, false, false, false, false⟩)
    let attention := decide (s.attention ≠ [] ∧ s.resetHeld = false)
    let v := s.events
    let anyEvent := v.done || attention || v.loadFired || v.stray || v.damage || v.cycle || v.wake || interface || v.resetNoted
    s.readField f =
      match f with
      | .interfaceControl =>
        [0#4 ++ bit s.port.config.keepLoop ++ bit s.port.config.statusSend
          ++ bit (s.port.config.direction == .descending) ++ bit (s.port.config.mode == .singleField)]
      | .loopLength => [s.port.loopLength]
      | .crcEnablePair => [if s.port.crcOn then 0x01 else 0x02]
      | .summary =>
        [0#1
          ++ (match s.cycle.state with
              | .stopped => 0#2
              | .seeking | .clashed => 1#2
              | .coasting => 2#2
              | .running | .locked => 3#2)
          ++ bit interface ++ bit anyEvent ++ bit attention ++ bit (s.command.state != .idle) ++ bit s.clearing]
      | .errorFlags =>
        [bit e.commandRefused ++ bit e.windowLocked ++ bit e.notReady ++ bit e.bitCount ++ bit e.crcMismatch
          ++ bit e.readOnlyWrite ++ bit e.partialField ++ bit e.unknownAddress, 0#7 ++ bit e.settingRefused]
      | .partNumber => [0x84, 0x03]
      | .revision => [0x01]
      | .eventRegister =>
        [bit interface ++ bit v.wake ++ bit v.cycle ++ bit v.damage ++ bit v.stray ++ bit v.loadFired
          ++ bit attention ++ bit v.done, 0#7 ++ bit v.resetNoted]
      | .eventMask => [s.mask.extractLsb' 0 8, 0#7 ++ s.mask.extractLsb' 8 1]
      | .attentionCount => number s.attention.length
      | .occupancyCount => number s.directory.occupancy
      | .cycleControl => [0#6 ++ bit (s.cycle.mode == .follower) ++ bit s.cycle.run]
      | .cyclePeriod => [s.cycle.period]
      | .lineRate => [0#6 ++ s.line.rate]
      | .answerGap => [s.line.gap]
      | .answerRange => [s.line.rangeLow, s.line.rangeHigh]
      | .cycleCounter => [lo s.cycle.counter, hi s.cycle.counter]
      | .cycleState =>
        [match s.cycle.state with
          | .stopped => 0
          | .running => 1
          | .clashed => 2
          | .seeking => 3
          | .locked => 4
          | .coasting => 5]
      | .damagedCount => number s.line.damaged
      | .commandCode => [s.command.code]
      | .commandState => [if s.command.state = .idle then 0 else 1]
      | .scanPosition => number s.command.scan.val
      | .commandArgument => (List.range 4).map (fun k => s.command.argument.extractLsb' (8 * k) 8)
      | .resultRecord =>
        [match s.command.result.code with
          | .done => 0x00
          | .notFound => 0x01
          | .emptySlot => 0x02
          | .stale => 0x03
          | .keyInUse => 0x04
          | .directoryFull => 0x05
          | .noNode => 0x06
          | .nodeRetiring => 0x07
          | .outOfRange => 0x08
          | .addressInUse => 0x09
          | .identityInUse => 0x0A
          | .badIdentity => 0x0B
          | .badArgument => 0x0C
          | .scheduleFull => 0x0D
          | .pastDue => 0x0E
          | .none => 0x0F
          | .aborted => 0x10
          | .idle => 0x11
          | .badCommand => 0x12,
          s.command.result.generation] ++ number s.command.result.slot ++ number s.command.result.count ++ [0, 0]
      | .windowImage => s.command.image.toList
      | .windowIdentity => identity s.command.window.identity
      | .windowFirst => [lo s.command.window.first, hi s.command.window.first]
      | .windowSecond => [lo s.command.window.second, hi s.command.window.second]
      | .windowSelect => [s.command.window.select]
      | .windowGroup => [s.command.window.group]
      | .windowPermit => [s.command.window.permit]
      | .windowDemand => [s.command.window.demand]
      | .schedulePosition p =>
        (match s.schedule[p.val]? with
          | some x => [lo x.target, hi x.target, x.mask, 0]
          | none => [0, 0, 0, 0])
      | .lastFired =>
        [lo s.lastFired.target, hi s.lastFired.target, s.lastFired.mask, 0] ++ number s.lastFired.count ++ [0, 0]
      | .takeField => takeBytes s.take
      | .strayCapture =>
        [match s.stray.kind with
          | .none => 0
          | .noNode => 1
          | .noChannel => 2
          | .nodeRetiring => 3
          | .announceUnclaimed => 4,
          s.stray.address, 0#4 ++ s.stray.channel.getD 0, 0#6 ++ bit s.stray.identity.isSome ++ bit s.stray.channel.isSome,
          0, 0, 0, 0] ++ identity (s.stray.identity.getD 0)
      | .recordImage i =>
        (match (s.slot i).record with
          | some r => r.image.toList
          | none => [0, 0, 0, (s.slot i).generation, 0, 0, 0, 0, 0, 0, 0, 0, 0, 0, 0, 0])
      | .unknown _ => [0])
  ∧ (∀ f : Field, State.reset.readField f =
    match f with
    | .crcEnablePair => [0x02]
    | .summary => [0x01]
    | .partNumber => [0x84, 0x03]
    | .revision => [0x01]
    | .eventMask => [0x00, 0x01]
    | .cyclePeriod => [20]
    | .lineRate => [1]
    | .answerGap => [3]
    | .answerRange => [0x01, 0xEF]
    | f => List.replicate f.length 0)
  ∧ (∀ i : SlotNo, State.reset.slot i = ⟨0, none⟩)
  ∧ (∀ n : NodeNo, State.reset.node n = ⟨.free, none, none, 0, 0, 0, none, 0, .none⟩)
  ∧ State.reset.directory.index = [] ∧ State.reset.directory.occupancy = 0
  ∧ State.reset.schedule = [] ∧ State.reset.attention = [] ∧ State.reset.take = none
  ∧ State.reset.cycle = ⟨.source, false, 20, 0, .stopped, none, none⟩
  ∧ State.reset.line = ⟨.listen, none, none, none, 1, 3, 1, 239, 0, none⟩
  ∧ State.reset.pending = [] ∧ State.reset.clearing = true

/-- The step runs the operation at the front of the queue on the state with the queue's rest; with nothing waiting it idles (the model's choice, log 2). -/
def Obligations.StepRunsTheFrontOperation : Prop :=
  (∀ (c : Instr) (rest : List Instr) (s : State), s.pending = c :: rest → step s = exec c { s with pending := rest })
  ∧ ∀ s : State, s.pending = [] → step s = .next s

/-- Every operation answers a next state, with the waiting operations as they were. That an event which has no occasion in the state answers the same state (log 3), and the queue itself (log 2), are the model's choice (DESIGN CHOICE). -/
def Obligations.EveryOperationEndsInANextState : Prop :=
  ∀ (c : Instr) (s : State), ∃ t, exec c s = .next t ∧ t.pending = s.pending

/-! ## Directory commands -/

/-- R10. -/
def Obligations.LookupFindsTheKey : Prop :=
  ∀ s : State, s.CommandReady → s.IndexLaw →
    (¬ s.ArgKeyInRange → Leads s .lookup (s.ended 0x01 s.command.image ⟨.badArgument, 0, 0, 0⟩))
    ∧ (∀ (k : Key) (i : SlotNo) (r : Record), s.ArgKey k → (s.slot i).record = some r → r.key = k →
        Leads s .lookup (s.ended 0x01 r.image ⟨.done, i.val, r.generation, 0⟩))
    ∧ (∀ k : Key, s.ArgKey k → s.KeyAbsent k →
        Leads s .lookup (s.ended 0x01 s.command.image ⟨.notFound, 0, 0, 0⟩))

/-- R11, with the image of R7: the sixteen bytes of spec/10. -/
def Obligations.ReadSlotReturnsTheImage : Prop :=
  ∀ s : State, s.CommandReady →
    let bit : Bool → BitVec 1 := BitVec.ofBool
    let lo : Option Word16 → Byte := fun w => (w.getD 0).extractLsb' 0 8
    let hi : Option Word16 → Byte := fun w => (w.getD 0).extractLsb' 8 8
    let image : Record → Vector Byte 16 := fun r =>
      #v[bit r.reportSeq ++ bit r.halted ++ bit r.delivered ++ bit r.sent ++ bit r.liveSeq
          ++ (if r.halted then 2#2 else if r.liveLevel.isSome then 1#2 else 0#2) ++ 1#1,
        BitVec.ofNat 8 (nodeAddress r.node),
        bit r.reportPermitted ++ r.group ++ r.channel,
        r.generation,
        0#1 ++ bit r.reasons.pendingPoll ++ bit r.reasons.reported ++ bit r.reasons.delivered
          ++ bit r.lastPollCycle.isSome ++ bit r.reportValue.isSome ++ bit r.stagedLevel.isSome
          ++ bit r.liveLevel.isSome,
        0, lo r.liveLevel, hi r.liveLevel, lo r.stagedLevel, hi r.stagedLevel, lo r.reportValue, hi r.reportValue,
        lo r.lastPollCycle, hi r.lastPollCycle, 0, 0]
    (384 ≤ s.command.argWord.toNat →
        Leads s .readSlot (s.ended 0x02 s.command.image ⟨.badArgument, 0, 0, 0⟩))
    ∧ (∀ (i : SlotNo) (r : Record), s.command.argWord.toNat = i.val → (s.slot i).record = some r →
        r.image = image r
        ∧ Leads s .readSlot (s.ended 0x02 (image r) ⟨.done, i.val, r.generation, 0⟩))
    ∧ (∀ i : SlotNo, s.command.argWord.toNat = i.val → (s.slot i).record = none →
        Leads s .readSlot (s.ended 0x02
          #v[0, 0, 0, (s.slot i).generation, 0, 0, 0, 0, 0, 0, 0, 0, 0, 0, 0, 0]
          ⟨.emptySlot, i.val, (s.slot i).generation, 0⟩))

/-- R12. -/
def Obligations.InsertChecksInOrder : Prop :=
  ∀ s : State, s.CommandReady → s.IndexLaw →
    (¬ s.InsertArgumentsGood → Leads s .insert (s.ended 0x03 s.command.image ⟨.badArgument, 0, 0, 0⟩))
    ∧ (s.InsertArgumentsGood → ∀ k : Key, s.ArgKey k →
        ((s.node k.node).state = .free → Leads s .insert (s.ended 0x03 s.command.image ⟨.noNode, 0, 0, 0⟩))
        ∧ ((s.node k.node).state = .retiring →
            Leads s .insert (s.ended 0x03 s.command.image ⟨.nodeRetiring, 0, 0, 0⟩))
        ∧ ((s.node k.node).state ≠ .free → (s.node k.node).state ≠ .retiring →
            (∀ (i : SlotNo) (r : Record), (s.slot i).record = some r → r.key = k →
                Leads s .insert (s.ended 0x03 r.image ⟨.keyInUse, i.val, r.generation, 0⟩))
            ∧ (s.KeyAbsent k → (∀ i : SlotNo, (s.slot i).record ≠ none) →
                Leads s .insert (s.ended 0x03 s.command.image ⟨.directoryFull, 0, 0, 0⟩))))

/-- R13, with the values of R4 and the generation of R2. -/
def Obligations.InsertPlacesTheRecord : Prop :=
  ∀ (s : State) (k : Key) (i : SlotNo), s.CommandReady → s.IndexLaw → s.InsertArgumentsGood → s.ArgKey k →
    (s.node k.node).state ≠ .free → (s.node k.node).state ≠ .retiring → s.KeyAbsent k →
    (s.slot i).record = none → (∀ j : SlotNo, j < i → (s.slot j).record ≠ none) →
    let generation := (s.slot i).generation + 1
    let r : Record :=
      { node := k.node, channel := k.channel, generation := generation
        group := s.command.window.group.setWidth 3, reportPermitted := s.command.window.permit == 1
        liveLevel := none, liveSeq := false, sent := false, delivered := false
        stagedLevel := if s.command.window.select = 1 then some s.command.window.first else none
        halted := false, reportValue := none, reportSeq := false, lastPollCycle := none, reasons := .none }
    Leads s .insert
      { s.ended 0x03 r.image ⟨.done, i.val, generation, 0⟩ with
        directory :=
          { slots := s.directory.slots.set i.val ⟨generation, some r⟩
            index := ⟨k, i⟩ :: s.directory.index
            occupancy := s.directory.occupancy + 1 }
        nodes := s.nodes.set k.node.val { s.node k.node with recordCount := (s.node k.node).recordCount + 1 } }

/-- R14. -/
def Obligations.AmendChecksInOrder : Prop :=
  ∀ s : State, s.CommandReady →
    (s.AmendArgumentsBad → Leads s .amend (s.ended 0x04 s.command.image ⟨.badArgument, 0, 0, 0⟩))
    ∧ (¬ s.AmendArgumentsBad → ∀ i : SlotNo, s.command.argWord.toNat = i.val →
        ((s.slot i).record = none →
            Leads s .amend (s.ended 0x04 s.command.image ⟨.emptySlot, i.val, (s.slot i).generation, 0⟩))
        ∧ (∀ r : Record, (s.slot i).record = some r → r.generation ≠ s.command.argByte 2 →
            Leads s .amend (s.ended 0x04 s.command.image ⟨.stale, i.val, r.generation, 0⟩)))

/-- R15, R16, R17: every selected change, the live change, the result and the image. -/
def Obligations.AmendAppliesTheSelectedChanges : Prop :=
  ∀ (s : State) (i : SlotNo) (r : Record), s.CommandReady → ¬ s.AmendArgumentsBad →
    s.command.argWord.toNat = i.val → (s.slot i).record = some r → r.generation = s.command.argByte 2 →
    let w := s.command.window
    let sel := w.select.getLsbD
    let live := sel 2 || (sel 6 && r.halted)
    let r' : Record :=
      { r with
        stagedLevel := if sel 0 then some w.first else if sel 1 then none else r.stagedLevel
        group := if sel 3 then w.group.setWidth 3 else r.group
        reportPermitted := if sel 4 then w.permit == 1 else r.reportPermitted
        liveLevel := if sel 2 then some w.second else r.liveLevel
        halted := if sel 5 then true else if sel 6 then false else r.halted
        liveSeq := if live then !r.liveSeq else r.liveSeq
        sent := if live then false else r.sent
        delivered := if live then false else r.delivered }
    Leads s .amend
      { s.ended 0x04 r'.image ⟨.done, i.val, r.generation, 0⟩ with
        directory := { s.directory with slots := s.directory.slots.set i.val { s.slot i with record := some r' } } }

/-- R19, with the removal of R18 and the release of R70. -/
def Obligations.RetireRemovesTheRecord : Prop :=
  ∀ s : State, s.CommandReady →
    (384 ≤ s.command.argWord.toNat → Leads s .retire (s.ended 0x05 s.command.image ⟨.badArgument, 0, 0, 0⟩))
    ∧ (∀ i : SlotNo, s.command.argWord.toNat = i.val →
        ((s.slot i).record = none →
            Leads s .retire (s.ended 0x05 s.command.image ⟨.emptySlot, i.val, (s.slot i).generation, 0⟩))
        ∧ (∀ r : Record, (s.slot i).record = some r →
            (r.generation ≠ s.command.argByte 2 →
                Leads s .retire (s.ended 0x05 s.command.image ⟨.stale, i.val, r.generation, 0⟩))
            ∧ (r.generation = s.command.argByte 2 →
                (((s.node r.node).state ≠ .retiring ∨ 1 < (s.node r.node).recordCount) →
                    Leads s .retire ((s.afterRemoval i r).ended 0x05 r.image ⟨.done, i.val, r.generation, 0⟩))
                ∧ ((s.node r.node).state = .retiring → (s.node r.node).recordCount = 1 →
                    Leads s .retire
                      (((s.afterRemoval i r).afterRelease r.node).ended 0x05 r.image
                        ⟨.done, i.val, r.generation, 0⟩)))))

/-- R20, R21: FIND's checks and the start of its scan. -/
def Obligations.FindBeginsOrRefuses : Prop :=
  ∀ s : State, s.CommandReady →
    let w := s.command.window
    let bad := 384 ≤ s.command.argWord.toNat ∨ 239 < w.group.toNat
      ∨ (w.permit.getLsbD 0 = false ∧ w.permit.getLsbD 1 = false ∧ w.permit.getLsbD 2 = false)
    (bad → Leads s .find (s.ended 0x06 s.command.image ⟨.badArgument, 0, 0, 0⟩))
    ∧ (¬ bad → ∀ i : SlotNo, s.command.argWord.toNat = i.val →
        Leads s .find { s with command := { s.command with code := 0x06, state := .finding 0, scan := i } })

/-- R20, R21, R22: one visit of a running FIND. -/
def Obligations.FindVisitJudgesTheSlot : Prop :=
  ∀ (s : State) (visited : Nat), s.resetHeld = false → s.command.state = .finding visited →
    let i := s.command.scan
    let w := s.command.window
    let meets : Record → Prop := fun r =>
      (w.group = 0 ∨ w.group.toNat = nodeAddress r.node)
      ∧ (if r.halted then w.permit.getLsbD 2 else if r.liveLevel.isSome then w.permit.getLsbD 1
          else w.permit.getLsbD 0) = true
      ∧ (w.demand.getLsbD 0 = true → r.liveLevel.isSome = true ∧ r.delivered = false)
      ∧ (w.demand.getLsbD 1 = true → r.stagedLevel.isSome = true)
      ∧ (w.demand.getLsbD 2 = true → r.reasons ≠ .none)
    (∀ r : Record, (s.slot i).record = some r → meets r →
        exec .findVisit s = .next (s.ended s.command.code r.image ⟨.done, i.val, r.generation, visited + 1⟩))
    ∧ ((∀ r ∈ (s.slot i).record, ¬ meets r) →
        (i.val = 383 →
            exec .findVisit s = .next (s.ended s.command.code s.command.image ⟨.none, 0, 0, visited + 1⟩))
        ∧ (∀ j : SlotNo, j.val = i.val + 1 →
            exec .findVisit s =
              .next { s with command := { s.command with state := .finding (visited + 1), scan := j } }))

/-! ## Node commands -/

/-- R51. The count 0 of the results ADDRESS IN USE and IDENTITY IN USE is the model's choice (log 27). -/
def Obligations.OfferChecksInOrder : Prop :=
  ∀ s : State, s.CommandReady → s.IdentityLaw →
    let a := (s.command.argByte 0).toNat
    let identity := s.command.window.identity
    let inside := 1 ≤ a ∧ a ≤ 239 ∧ s.line.rangeLow.toNat ≤ a ∧ a ≤ s.line.rangeHigh.toNat
    (¬ inside → Leads s .offer (s.ended 0x12 s.command.image ⟨.outOfRange, 0, 0, 0⟩))
    ∧ (∀ n : NodeNo, inside → a = nodeAddress n →
        ((s.node n).state ≠ .free →
            Leads s .offer (s.ended 0x12 (s.node n).image ⟨.addressInUse, nodeAddress n, 0, 0⟩))
        ∧ ((s.node n).state = .free → (identity = 0 ∨ identity = BitVec.allOnes 64) →
            Leads s .offer (s.ended 0x12 s.command.image ⟨.badIdentity, 0, 0, 0⟩))
        ∧ ((s.node n).state = .free → identity ≠ 0 → identity ≠ BitVec.allOnes 64 →
            (∀ m : NodeNo, (s.node m).state ≠ .free → (s.node m).identity = some identity →
                Leads s .offer (s.ended 0x12 (s.node m).image ⟨.identityInUse, nodeAddress m, 0, 0⟩))
            ∧ ((∀ m : NodeNo, (s.node m).state ≠ .free → (s.node m).identity ≠ some identity) →
                4095 < s.command.window.first.toNat →
                Leads s .offer (s.ended 0x12 s.command.image ⟨.badArgument, 0, 0, 0⟩))))

/-- R52. -/
def Obligations.OfferReservesTheAddress : Prop :=
  ∀ (s : State) (n : NodeNo), s.CommandReady →
    (s.command.argByte 0).toNat = nodeAddress n →
    s.line.rangeLow.toNat ≤ nodeAddress n → nodeAddress n ≤ s.line.rangeHigh.toNat →
    (s.node n).state = .free →
    s.command.window.identity ≠ 0 → s.command.window.identity ≠ BitVec.allOnes 64 →
    (∀ m : NodeNo, (s.node m).state ≠ .free → (s.node m).identity ≠ some s.command.window.identity) →
    s.command.window.first.toNat ≤ 4095 →
    let e : NodeEntry :=
      { s.node n with
        state := .offered
        identity := some s.command.window.identity
        lapseLimit := s.command.window.group
        offerRemaining := if s.command.window.first = 0 then none else some s.command.window.first.toNat }
    Leads s .offer
      { s.ended 0x12 e.image ⟨.done, nodeAddress n, 0, 0⟩ with nodes := s.nodes.set n.val e }

/-- R53, with the image of R54: the sixteen bytes of spec/10. -/
def Obligations.ReadNodeReturnsTheImage : Prop :=
  ∀ s : State, s.CommandReady →
    let bit : Bool → BitVec 1 := BitVec.ofBool
    let image : NodeEntry → Vector Byte 16 := fun e =>
      let offer := BitVec.ofNat 12 (e.offerRemaining.getD 0)
      let id : Nat → Byte := fun k => (e.identity.getD 0).extractLsb' (8 * k) 8
      #v[0#3 ++ bit e.status.isSome ++ bit e.offerRemaining.isSome
          ++ (match e.state with
              | .free => 0#3
              | .offered => 1#3
              | .assigned => 2#3
              | .bound => 3#3
              | .silent => 4#3
              | .retiring => 5#3),
        0#1 ++ bit e.reasons.announced ++ bit e.reasons.status ++ bit e.reasons.unconfirmed
          ++ bit e.reasons.offerExpired ++ bit e.reasons.returned ++ bit e.reasons.silent ++ bit e.reasons.bound,
        e.status.getD 0, BitVec.ofNat 8 e.recordCount,
        offer.extractLsb' 0 8, BitVec.ofNat 4 e.confirmRemaining ++ offer.extractLsb' 8 4,
        BitVec.ofNat 8 e.silence, e.lapseLimit, id 0, id 1, id 2, id 3, id 4, id 5, id 6, id 7]
    (¬ (1 ≤ (s.command.argByte 0).toNat ∧ (s.command.argByte 0).toNat ≤ 239) →
        Leads s .readNode (s.ended 0x11 s.command.image ⟨.badArgument, 0, 0, 0⟩))
    ∧ (∀ n : NodeNo, (s.command.argByte 0).toNat = nodeAddress n →
        (s.node n).image = image (s.node n)
        ∧ ((s.node n).state = .free →
            Leads s .readNode (s.ended 0x11 (image (s.node n)) ⟨.noNode, nodeAddress n, 0, 0⟩))
        ∧ ((s.node n).state ≠ .free →
            Leads s .readNode (s.ended 0x11 (image (s.node n)) ⟨.done, nodeAddress n, 0, 0⟩)))

/-- R66, with the release of R50. -/
def Obligations.RetireNodeBegins : Prop :=
  ∀ s : State, s.CommandReady →
    (¬ (1 ≤ (s.command.argByte 0).toNat ∧ (s.command.argByte 0).toNat ≤ 239) →
        Leads s .retireNode (s.ended 0x13 s.command.image ⟨.badArgument, 0, 0, 0⟩))
    ∧ (∀ n : NodeNo, (s.command.argByte 0).toNat = nodeAddress n →
        ((s.node n).state = .free →
            Leads s .retireNode (s.ended 0x13 s.command.image ⟨.noNode, nodeAddress n, 0, 0⟩))
        ∧ ((s.node n).state ≠ .free → (s.node n).recordCount = 0 →
            Leads s .retireNode ((s.afterRelease n).ended 0x13 s.command.image ⟨.done, nodeAddress n, 0, 0⟩))
        ∧ ((s.node n).state ≠ .free → (s.node n).recordCount ≠ 0 →
            Leads s .retireNode
              { s with
                nodes := s.nodes.set n.val { s.node n with state := .retiring }
                command := { s.command with code := 0x13, state := .cascading n 0, scan := 0 } }))

/-- R68, R69: one visit of a running cascade. A visit of slot 383 that does not end the cascade cannot occur (log 15). -/
def Obligations.CascadeVisitRemovesTheRecord : Prop :=
  ∀ (s : State) (n : NodeNo) (removed : Nat), s.resetHeld = false → s.command.state = .cascading n removed →
    let i := s.command.scan
    ((∀ r ∈ (s.slot i).record, r.node ≠ n) → ∀ j : SlotNo, j.val = i.val + 1 →
        exec .cascadeVisit s =
          .next { s with command := { s.command with state := .cascading n removed, scan := j } })
    ∧ (∀ r : Record, (s.slot i).record = some r → r.node = n →
        ((s.node n).recordCount = 1 →
            exec .cascadeVisit s =
              .next (((s.afterRemoval i r).afterRelease n).ended s.command.code s.command.image
                ⟨.done, nodeAddress n, 0, removed + 1⟩))
        ∧ (1 < (s.node n).recordCount → ∀ j : SlotNo, j.val = i.val + 1 →
            exec .cascadeVisit s =
              .next { s.afterRemoval i r with
                command := { s.command with state := .cascading n (removed + 1), scan := j } }))

/-! ## Load commands -/

/-- R77, with the load of R73 and R74. -/
def Obligations.LoadPromotesTheNamedGroups : Prop :=
  ∀ s : State, s.CommandReady →
    (s.command.argByte 0 = 0 → Leads s .load (s.ended 0x21 s.command.image ⟨.badArgument, 0, 0, 0⟩))
    ∧ (s.command.argByte 0 ≠ 0 →
        Leads s .load
          ((s.afterLoad (s.command.argByte 0)).ended 0x21 s.command.image
            ⟨.done, 0, 0, s.countRecords (promotes (s.command.argByte 0))⟩))

/-- R79, R80. -/
def Obligations.ScheduleMergesOrAppends : Prop :=
  ∀ s : State, s.CommandReady → s.ScheduleLaw →
    let target := s.command.argWord
    let mask := s.command.argByte 2
    let held := s.schedule.length
    let isAhead := 1 ≤ (target - s.cycle.counter).toNat ∧ (target - s.cycle.counter).toNat ≤ 32767
    (¬ isAhead → Leads s .schedule (s.ended 0x22 s.command.image ⟨.pastDue, 0, 0, held⟩))
    ∧ (isAhead → mask = 0 → Leads s .schedule (s.ended 0x22 s.command.image ⟨.badArgument, 0, 0, held⟩))
    ∧ (isAhead → mask ≠ 0 →
        (∀ (p : Nat) (e : ScheduleEntry), s.schedule[p]? = some e → e.target = target →
            Leads s .schedule
              { s.ended 0x22 s.command.image ⟨.done, p, 0, held⟩ with
                schedule := s.schedule.set p ⟨target, e.mask ||| mask⟩ })
        ∧ ((∀ e ∈ s.schedule, e.target ≠ target) →
            (held < 6 →
                Leads s .schedule
                  { s.ended 0x22 s.command.image ⟨.done, held, 0, held + 1⟩ with
                    schedule := s.schedule ++ [⟨target, mask⟩] })
            ∧ (held = 6 → Leads s .schedule (s.ended 0x22 s.command.image ⟨.scheduleFull, 0, 0, 6⟩))))

/-- R81. -/
def Obligations.UnscheduleRemovesTheEntry : Prop :=
  ∀ s : State, s.CommandReady → s.ScheduleLaw →
    (∀ (p : Nat) (e : ScheduleEntry), s.schedule[p]? = some e → e.target = s.command.argWord →
        Leads s .unschedule
          { s.ended 0x23 s.command.image ⟨.done, p, 0, s.schedule.length - 1⟩ with
            schedule := s.schedule.take p ++ s.schedule.drop (p + 1) })
    ∧ ((∀ e ∈ s.schedule, e.target ≠ s.command.argWord) →
        Leads s .unschedule (s.ended 0x23 s.command.image ⟨.notFound, 0, 0, s.schedule.length⟩))

/-! ## The command unit -/

/-- R138, R139. -/
def Obligations.AbortStopsTheScan : Prop :=
  ∀ s : State, s.HostReady .commandCode false →
    (s.command.state = .idle → Leads s .abort (s.ended 0x3F s.command.image ⟨.idle, 0, 0, 0⟩))
    ∧ (∀ visited : Nat, s.command.state = .finding visited →
        Leads s .abort (s.ended 0x3F s.command.image ⟨.aborted, s.command.scan.val, 0, visited⟩))
    ∧ (∀ (n : NodeNo) (removed : Nat), s.command.state = .cascading n removed →
        Leads s .abort (s.ended 0x3F s.command.image ⟨.aborted, s.command.scan.val, 0, removed⟩))

/-- R140 while IDLE; R133 while BUSY, for every code but ABORT. -/
def Obligations.CodesNotTakenAsCommands : Prop :=
  (∀ (s : State) (code : Byte), s.CommandReady → code ∉ commandCodes →
      Leads s (.badCommand code) (s.ended code s.command.image ⟨.badCommand, 0, 0, 0⟩))
  ∧ ∀ (s : State) (i : Instr), s.HostReady .commandCode false → s.command.state ≠ .idle →
      (i ∈ [.lookup, .readSlot, .insert, .amend, .retire, .find, .readNode, .offer, .retireNode, .load, .schedule,
          .unschedule] ∨ ∃ code : Byte, code ∉ commandCodes ∧ i = .badCommand code) →
      Leads s i { s with port := { s.port with errors := { s.port.errors with commandRefused := true } } }

/-! ## Polls -/

/-- R24. -/
def Obligations.PollOutsideIsIgnored : Prop :=
  ∀ (s : State) (p : PollFrame), s.Listening → s.LineLaw → ¬ s.TakesPolls p.address → exec (.poll p) s = .next s

/-- R26, R27, with the stray of R31 and the hand-over of R39. -/
def Obligations.PollRefusedAtTheGate : Prop :=
  ∀ (s : State) (p : PollFrame) (n : NodeNo), s.Listening → s.TakesPolls p.address →
    p.address.toNat = nodeAddress n →
    (((s.node n).state = .free ∨ (s.node n).state = .offered) →
        exec (.poll p) s =
          .next { s with
            stray := ⟨.noNode, p.address, some p.channel, none⟩
            events := { s.events with stray := true }
            line := s.line.answering (.refuse ⟨n, p.channel⟩ .noNode) })
    ∧ ((s.node n).state = .retiring →
        exec (.poll p) s =
          .next { s with
            stray := ⟨.nodeRetiring, p.address, some p.channel, none⟩
            events := { s.events with stray := true }
            line := s.line.answering (.refuse ⟨n, p.channel⟩ .nodeRetiring) })

/-- R30, with the gate of R28 and R29 and the stray of R31. -/
def Obligations.PollWithoutARecordIsRefused : Prop :=
  ∀ (s : State) (p : PollFrame) (n : NodeNo), s.Listening → s.IndexLaw → s.TakesPolls p.address →
    p.address.toNat = nodeAddress n → (s.node n).PassesGate → s.KeyAbsent ⟨n, p.channel⟩ →
    exec (.poll p) s =
      .next { s.afterGate n p.status with
        stray := ⟨.noChannel, p.address, some p.channel, none⟩
        events := { s.events with stray := true }
        line := s.line.answering (.refuse ⟨n, p.channel⟩ .noChannel) }

/-- R28, R29, R32 to R39: the work of a POLL answered from a record. -/
def Obligations.PollIsAnsweredFromTheRecord : Prop :=
  ∀ (s : State) (p : PollFrame) (n : NodeNo) (i : SlotNo) (r : Record), s.Listening → s.IndexLaw →
    s.TakesPolls p.address → p.address.toNat = nodeAddress n → (s.node n).PassesGate →
    (s.slot i).record = some r → r.key = ⟨n, p.channel⟩ →
    let g := s.afterGate n p.status
    let confirmed := r.liveLevel.isSome && r.sent && p.echoSeq == r.liveSeq && !r.delivered
    let judged := p.report.isSome && r.reportPermitted
    let accepted := judged && (r.reportValue.isNone || p.reportSeq != r.reportSeq)
    let waiting := !r.halted && r.liveLevel.isNone
    let raised : RecordReasons := ⟨confirmed, accepted, waiting⟩
    let r' : Record :=
      { r with
        delivered := r.delivered || confirmed
        reportValue := if accepted then p.report else r.reportValue
        reportSeq := if accepted then p.reportSeq else r.reportSeq
        lastPollCycle := some s.cycle.counter
        reasons := r.reasons.union raised }
    let answer : Answer :=
      if r.halted then .halt r.key i r.generation judged
      else match r.liveLevel with
        | none => .wait r.key i r.generation judged
        | some level => .level r.key i r.generation r.liveSeq level judged
    exec (.poll p) s =
      .next { g with
        directory := { s.directory with slots := s.directory.slots.set i.val { s.slot i with record := some r' } }
        attention := if r.reasons.isEmpty && !raised.isEmpty then g.attention ++ [.record i] else g.attention
        take := g.take.map (·.noteRecord i raised)
        line := s.line.answering answer }

/-! ## Announces -/

/-- R55: the identity found is that of the first position that passes; an announce without one is dropped. -/
def Obligations.AnnounceIdentityIsTheFirstPattern : Prop :=
  ∀ body : List Byte,
    let passes : Nat → List Byte → Prop := fun p copy =>
      copy.length = 8
      ∧ (∃ rest, body.drop p = [0x96, 0x96, 0x96] ++ copy ++ copy ++ copy ++ copy ++ rest)
      ∧ join64 copy ≠ 0 ∧ join64 copy ≠ BitVec.allOnes 64
    (∀ (p : Nat) (copy : List Byte), passes p copy → (∀ q < p, ∀ c, ¬ passes q c) →
        searchIdentity body = some (join64 copy))
    ∧ ((∀ p c, ¬ passes p c) →
        searchIdentity body = none
        ∧ ∀ s : State, s.Listening → s.LineLaw → 12 ≤ body.length → body.length ≤ 64 →
            exec (.announce body) s = .next s)

/-- R56, R57, R60: an announce meets the node table. -/
def Obligations.AnnounceMeetsTheNodeTable : Prop :=
  ∀ (s : State) (body : List Byte), s.Listening → s.LineLaw → s.IdentityLaw → 12 ≤ body.length → body.length ≤ 64 →
    (searchIdentity body = none → exec (.announce body) s = .next s)
    ∧ (∀ identity : Identity, searchIdentity body = some identity →
        (∀ n : NodeNo, (s.node n).state ≠ .free → (s.node n).state ≠ .retiring →
            (s.node n).identity = some identity →
            let announced : NodeReasons := { NodeReasons.none with announced := true }
            let told : State :=
              { s with
                nodes := s.nodes.set n.val { s.node n with reasons := (s.node n).reasons.union announced }
                attention := if (s.node n).reasons.isEmpty then s.attention ++ [.node n] else s.attention
                take := s.take.map (·.noteNode n announced) }
            (s.cycle.state = .stopped →
                exec (.announce body) s = .next { told with events := { s.events with wake := true } })
            ∧ (s.cycle.state ≠ .stopped → (s.node n).state = .offered →
                exec (.announce body) s = .next { s with line := s.line.answering (.assign n identity) })
            ∧ (s.cycle.state ≠ .stopped → (s.node n).state ≠ .offered →
                exec (.announce body) s = .next { told with line := s.line.answering (.assign n identity) }))
        ∧ ((∀ n : NodeNo, (s.node n).state ≠ .free → (s.node n).state ≠ .retiring →
              (s.node n).identity ≠ some identity) →
            (s.cycle.state = .stopped → exec (.announce body) s = .next s)
            ∧ (s.cycle.state ≠ .stopped →
                exec (.announce body) s =
                  .next { s with
                    stray := ⟨.announceUnclaimed, 0, none, some identity⟩
                    events := { s.events with stray := true } })))

/-! ## The cycle unit -/

/-- R95, R97 to R100, R102: a valid BEACON in each cycle state. -/
def Obligations.BeaconActsByCycleState : Prop :=
  ∀ (s : State) (number : Word16), s.Listening → s.LineLaw →
    let next := s.cycle.counter + 1
    let deadline := some (s.cycle.period.toNat * 1125)
    let started := s.cycleStart next
    let changed : State → CycleUnit → State := fun t c =>
      { t with cycle := c, events := { t.events with cycle := true } }
    ((s.cycle.state = .stopped ∨ s.cycle.state = .clashed) → exec (.beacon number) s = .next s)
    ∧ (s.cycle.state = .running →
        exec (.beacon number) s = .next (changed s { s.cycle with state := .clashed, timer := none }))
    ∧ (s.cycle.state = .seeking →
        exec (.beacon number) s =
          .next (changed (s.cycleStart number)
            { s.cycle with counter := number, state := .locked, deadline := deadline }))
    ∧ (s.cycle.state = .locked → number = next →
        exec (.beacon number) s = .next { started with cycle := { s.cycle with counter := next, deadline := deadline } })
    ∧ (s.cycle.state = .locked → number ≠ next →
        exec (.beacon number) s =
          .next (changed started { s.cycle with counter := next, state := .coasting, deadline := deadline }))
    ∧ (s.cycle.state = .coasting → number = next →
        exec (.beacon number) s =
          .next (changed started { s.cycle with counter := next, state := .locked, deadline := deadline }))
    ∧ (s.cycle.state = .coasting → number ≠ next →
        exec (.beacon number) s = .next (changed s { s.cycle with state := .seeking, deadline := none }))

/-- R62 to R65, R91, R92: what a cycle start does to the node table, and what it leaves alone. -/
def Obligations.CycleStartCountsTheNodes : Prop :=
  ∀ (s : State) (new : Word16), s.NodeLaw →
    let t := s.cycleStart new
    (∀ n : NodeNo, t.node n = (s.node n).afterCycle)
    ∧ t.attention = s.attention ++
        ((List.finRange 239).filter (fun n =>
          (s.node n).reasons.isEmpty && !(s.node n).raisedAtCycle.isEmpty)).map .node
    ∧ t.take = s.take.map (fun
        | .node n latched since false => .node n latched (since.union (s.node n).raisedAtCycle) false
        | x => x)
    ∧ t.cycle = { s.cycle with counter := new }
    ∧ t.line = s.line ∧ t.mask = s.mask ∧ t.stray = s.stray ∧ t.command = s.command ∧ t.port = s.port
    ∧ t.clearing = s.clearing ∧ t.resetHeld = s.resetHeld ∧ t.pending = s.pending

/-- R82 to R84, R86: what a cycle start does to the schedule and the records. -/
def Obligations.CycleStartFiresTheSchedule : Prop :=
  ∀ (s : State) (new : Word16),
    let t := s.cycleStart new
    let old := s.cycle.counter
    let move := (new - old).toNat
    let fires : ScheduleEntry → Bool := fun e =>
      e.target = new
        ∨ (1 ≤ move ∧ move ≤ 32767 ∧ 1 ≤ (e.target - old).toNat ∧ (e.target - old).toNat ≤ move)
    ((∀ e ∈ s.schedule, fires e = false) →
        t.directory = s.directory ∧ t.schedule = s.schedule ∧ t.lastFired = s.lastFired ∧ t.events = s.events)
    ∧ ((∃ e ∈ s.schedule, fires e = true) → ∀ mask : Byte,
        (∀ b < 8, mask.getLsbD b = true ↔ ∃ e ∈ s.schedule, fires e = true ∧ e.mask.getLsbD b = true) →
        t.directory = (s.afterLoad mask).directory
        ∧ t.schedule = s.schedule.filter (fun e => !fires e)
        ∧ t.lastFired = ⟨new, mask, s.countRecords (promotes mask)⟩
        ∧ t.events = { s.events with loadFired := true })

/-- R93, with the beacon request of R94 and R114. That a request made while one is held replaces it is the model's reading (log 14, DEDUCED). -/
def Obligations.CycleTimerExpiryStartsACycle : Prop :=
  ∀ s : State, s.resetHeld = false → s.cycle.state = .running → s.cycle.timer.isSome = true →
    let new := s.cycle.counter + 1
    exec .cycleTimerExpiry s =
      .next { s.cycleStart new with
        cycle := { s.cycle with counter := new, timer := some (s.cycle.period.toNat * 1000) }
        line := s.line.requested new }

/-- R98, R99, R100: an expiry of the beacon deadline is a miss. -/
def Obligations.BeaconDeadlineExpiryIsAMiss : Prop :=
  ∀ s : State, s.resetHeld = false → s.cycle.deadline.isSome = true →
    let new := s.cycle.counter + 1
    (s.cycle.state = .locked →
        exec .beaconDeadlineExpiry s =
          .next { s.cycleStart new with
            cycle := { s.cycle with
              counter := new, state := .coasting, deadline := some (s.cycle.period.toNat * 1125) }
            events := { (s.cycleStart new).events with cycle := true } })
    ∧ (s.cycle.state = .coasting →
        exec .beaconDeadlineExpiry s =
          .next { s with
            cycle := { s.cycle with state := .seeking, deadline := none }
            events := { s.events with cycle := true } })

/-- R89, with R93, R96, R97 and R101: the five rows that write the cycle control field. -/
def Obligations.CycleControlWriteFollowsTheTable : Prop :=
  ∀ (s : State) (i : Instr) (value : Byte), s.HostReady .cycleControl false →
    (i = .cycleControlWrite value
      ∨ (i, value) ∈ ([(.runSetSource, 0x01), (.runSetFollower, 0x03), (.runClearSource, 0x00),
          (.runClearFollower, 0x02)] : List (Instr × Byte))) →
    let mode : CycleMode := if value.getLsbD 1 then .follower else .source
    let raised := { s.events with cycle := true }
    (s.cycle.run = false → value.getLsbD 0 = false → Leads s i { s with cycle := { s.cycle with mode := mode } })
    ∧ (s.cycle.run = false → value.getLsbD 0 = true → mode = .source →
        Leads s i { s with
          cycle := { s.cycle with
            mode := .source, run := true, state := .running, timer := some (s.cycle.period.toNat * 1000) }
          events := raised })
    ∧ (s.cycle.run = false → value.getLsbD 0 = true → mode = .follower →
        Leads s i { s with
          cycle := { s.cycle with mode := .follower, run := true, state := .seeking }
          events := raised })
    ∧ (s.cycle.run = true → mode = s.cycle.mode → value.getLsbD 0 = true → Leads s i s)
    ∧ (s.cycle.run = true → mode = s.cycle.mode → value.getLsbD 0 = false →
        Leads s i { s with
          cycle := { s.cycle with run := false, state := .stopped, timer := none, deadline := none }
          events := raised
          line := s.line.cancelled })
    ∧ (s.cycle.run = true → mode ≠ s.cycle.mode →
        Leads s i { s with port := { s.port with errors := { s.port.errors with settingRefused := true } } })

/-! ## Settings -/

/-- R90, R104, R116: the cycle period, the line rate and the answer gap, accepted or refused. -/
def Obligations.SettingWritesAreJudged : Prop :=
  ∀ (s : State) (value : Byte),
    let refused := { s with port := { s.port with errors := { s.port.errors with settingRefused := true } } }
    (s.HostReady .cyclePeriod false →
        (2 ≤ value.toNat → value.toNat ≤ 200 →
            Leads s (.cyclePeriodWrite value) { s with cycle := { s.cycle with period := value } })
        ∧ ((value.toNat < 2 ∨ 200 < value.toNat) → Leads s (.cyclePeriodWrite value) refused))
    ∧ (s.HostReady .lineRate false →
        (value.toNat ≤ 3 → s.cycle.run = false →
            Leads s (.lineRateWrite value) { s with line := { s.line with rate := value.setWidth 2 } })
        ∧ ((3 < value.toNat ∨ s.cycle.run = true) → Leads s (.lineRateWrite value) refused))
    ∧ (s.HostReady .answerGap false →
        (2 ≤ value.toNat → value.toNat ≤ 15 →
            Leads s (.answerGapWrite value) { s with line := { s.line with gap := value } })
        ∧ ((value.toNat < 2 ∨ 15 < value.toNat) → Leads s (.answerGapWrite value) refused))

/-- R117. -/
def Obligations.AnswerRangeWriteIsJudged : Prop :=
  ∀ (s : State) (low high : Byte), s.HostReady .answerRange false →
    let ok := s.cycle.run = false ∧ 1 ≤ low.toNat ∧ low.toNat ≤ 239 ∧ 1 ≤ high.toNat ∧ high.toNat ≤ 239
      ∧ low.toNat ≤ high.toNat
      ∧ ∀ n : NodeNo, (s.node n).state ≠ .free → low.toNat ≤ nodeAddress n ∧ nodeAddress n ≤ high.toNat
    (ok → Leads s (.answerRangeWrite low high) { s with line := { s.line with rangeLow := low, rangeHigh := high } })
    ∧ (¬ ok → Leads s (.answerRangeWrite low high)
        { s with port := { s.port with errors := { s.port.errors with settingRefused := true } } })

/-! ## Reception and sending -/

/-- R110, R111, R113, R108: ignored kinds change nothing; damaged frames, line silence and collisions are counted. R118: while the part does not receive, during the start-up clear and while RSTN is low, nothing on the line has an effect. That a COLLISION in SENDING comes after the place of the part's own start marker is the model's reading (log 22). -/
def Obligations.DamageIsCountedAndIgnoredKindsAreNot : Prop :=
  (∀ s : State, s.clearing = true ∨ s.resetHeld = true →
    let ignored : Instr → Prop := fun row => exec row s = .next s
    (∀ p, ignored (.poll p)) ∧ (∀ body, ignored (.announce body)) ∧ (∀ number, ignored (.beacon number))
    ∧ (∀ kind, ignored (.ignoredAnswerKind kind)) ∧ (∀ cause, ignored (.damagedFrame cause))
    ∧ (∀ bytes, ignored (.startMarker bytes)) ∧ ignored .lineSilence ∧ ignored .collision)
  ∧ ∀ s : State, s.LineLaw → s.receives = true →
    let counted : LineController :=
      { s.line with
        damaged := min (s.line.damaged + 1) 65535
        damagedLatch := s.line.damagedLatch.map (fun d => { d with since := min (d.since + 1) 65535 }) }
    let damage : LineController → State := fun l => { s with line := l, events := { s.events with damage := true } }
    (s.line.state = .listen → ∀ kind, exec (.ignoredAnswerKind kind) s = .next s)
    ∧ (s.line.state = .listen → ∀ cause, cause ≠ .cutShort → exec (.damagedFrame cause) s = .next (damage counted))
    ∧ (s.line.state = .listen →
        exec (.damagedFrame .cutShort) s =
          .next (damage { counted with state := .receiving ⟨[], false, none, s.line.rate⟩ }))
    ∧ (∀ frame, s.line.state = .receiving frame → exec .lineSilence s = .next (damage counted.resting))
    ∧ (∀ claim length rate, s.line.state = .gap claim length rate → exec .collision s = .next (damage counted))
    ∧ (∀ claim wire rate echoed, s.line.state = .sending claim wire rate echoed →
        exec .collision s = .next (damage { counted with state := .sending claim wire rate true }))

/-- R104 to R106, R108 to R110, R113 to R115: what each byte arriving does, and how a frame is judged at its end marker. A byte with a framing fault is no marker (the model's reading, log 7); what a byte read back in SENDING stands for is the model's reading of R113 (log 22). A beacon pending in RECEIVING is taken at the end of a frame that yields no answer, kept through an answer, and cancelled by a clash. -/
def Obligations.ReceiverTakesEachByte : Prop :=
  (∀ (s : State) (bytes : List LineByte) (t : State) (b : LineByte), exec (.startMarker bytes) s = .next t →
      exec (.startMarker (bytes ++ [b])) s = .next (t.lineByte b))
  ∧ (∀ s : State, exec (.startMarker []) s = .next (s.lineByte ⟨0xF9, false⟩))
  ∧ ∀ (s : State) (b : LineByte), s.receives = true →
      let fresh : LineState := .receiving ⟨[], false, none, s.line.rate⟩
      let counted : State :=
        { s with
          line := { s.line with
            damaged := min (s.line.damaged + 1) 65535
            damagedLatch := s.line.damagedLatch.map (fun d => { d with since := min (d.since + 1) 65535 }) }
          events := { s.events with damage := true } }
      let isStart := b = ⟨0xF9, false⟩
      (s.line.state = .listen →
          (isStart → s.lineByte b = { s with line := { s.line with state := fresh } })
          ∧ (¬ isStart → s.lineByte b = s))
      ∧ (∀ claim length rate, s.line.state = .gap claim length rate →
          (isStart → s.lineByte b = counted) ∧ (¬ isStart → s.lineByte b = s))
      ∧ (∀ claim wire rate, s.line.state = .sending claim wire rate false →
          s.lineByte b = { s with line := { s.line with state := .sending claim wire rate true } })
      ∧ (∀ claim wire rate, s.line.state = .sending claim wire rate true →
          (isStart → s.lineByte b = counted) ∧ (¬ isStart → s.lineByte b = s))
      ∧ (∀ frame : Reception, s.line.state = .receiving frame →
          let goes : Reception → State := fun f => { s with line := { s.line with state := .receiving f } }
          (isStart → s.lineByte b = { counted with line := { counted.line with state := fresh } })
          ∧ (b = ⟨0xFA, false⟩ →
              let damaged : State := { counted with line := counted.line.resting }
              let faulty := frame.fault.isSome = true ∨ frame.escaped = true
              let body := frame.content.take (frame.content.length - 2)
              let crc := frame.content.drop (frame.content.length - 2)
              let kind := body.headD 0
              (faulty → s.lineByte b = damaged)
              ∧ (frame.content.length < 3 → s.lineByte b = damaged)
              ∧ (3 ≤ frame.content.length → bytes16 (crc16 body) ≠ crc → s.lineByte b = damaged)
              ∧ (¬ faulty → 3 ≤ frame.content.length → bytes16 (crc16 body) = crc →
                  (kind ∉ [0x21, 0x2A, 0x40, 0x61, 0x62, 0x63, 0x64, 0x65] → s.lineByte b = damaged)
                  ∧ (kind = 0x21 → (∀ p, body ≠ pollBody p) → s.lineByte b = damaged)
                  ∧ (kind = 0x2A → (∀ x : List Byte, 12 ≤ x.length → x.length ≤ 64 → body ≠ announceContent x) →
                      s.lineByte b = damaged)
                  ∧ (kind = 0x40 → (∀ number, body ≠ beaconBody number) → s.lineByte b = damaged)
                  ∧ (kind ∈ [0x61, 0x62, 0x63, 0x64, 0x65] → s.lineByte b = { s with line := s.line.resting })
                  ∧ (s.LineLaw →
                      let free : State := { s with line := { s.line with state := .listen, beacon := none } }
                      let acts : Instr → Prop := fun row =>
                        ∃ t, exec row free = .next t ∧
                          s.lineByte b = { t with line :=
                            if t.line.answer.isSome then { t.line with beacon := s.line.beacon }
                            else { t.line with beacon := s.line.beacon }.resting }
                      (∀ p, body = pollBody p → acts (.poll p))
                      ∧ (∀ x : List Byte, 12 ≤ x.length → x.length ≤ 64 → body = announceContent x → acts (.announce x))
                      ∧ (∀ number, body = beaconBody number →
                          (s.cycle.state ≠ .running → acts (.beacon number))
                          ∧ (s.cycle.state = .running → exec (.beacon number) free = .next (s.lineByte b))))))
          ∧ (¬ isStart → b ≠ ⟨0xFA, false⟩ →
              (frame.fault.isSome = true → s.lineByte b = s)
              ∧ (frame.fault = none → b.framingFault = true →
                  s.lineByte b = goes { frame with fault := some .framing })
              ∧ (frame.fault = none → b.framingFault = false →
                  (frame.escaped = false → b.value = 0xFB → s.lineByte b = goes { frame with escaped := true })
                  ∧ (frame.escaped = true → b.value ∉ [0xE9, 0xEA, 0xEB] →
                      s.lineByte b = goes { frame with fault := some .escape, escaped := false })
                  ∧ (∀ v : Byte, (frame.escaped = false ∧ b.value ≠ 0xFB ∧ v = b.value)
                        ∨ (frame.escaped = true ∧ b.value ∈ [0xE9, 0xEA, 0xEB] ∧ v = b.value ^^^ 0x10) →
                      (frame.content.length < 80 →
                          s.lineByte b = goes { frame with content := frame.content ++ [v], escaped := false })
                      ∧ (80 ≤ frame.content.length →
                          s.lineByte b = goes { frame with fault := some .overrun, escaped := false })))))

/-- R112, R114, R158: at the end of the gap the frame of the claim is on the line; LDE is asserted exactly while the controller is SENDING. -/
def Obligations.AnswerGapExpirySendsTheFrame : Prop :=
  (∀ s : State, s.driverEnabled = true ↔ ∃ claim wire rate echoed, s.line.state = .sending claim wire rate echoed)
  ∧ ∀ (s : State) (length : Nat) (rate : BitVec 2), s.resetHeld = false →
    let taken : Bool → Byte := fun b => if b then 0x20 else 0
    let seqBit : Bool → Byte := fun b => if b then 0x10 else 0
    let sends : Claim → List Byte → Prop := fun claim content =>
      exec .answerGapExpiry s =
        .next { s with line := { s.line with
          state := .sending claim
            (0xF9 :: (content ++ bytes16 (crc16 content)).flatMap
              (fun b => if b = 0xF9 ∨ b = 0xFA ∨ b = 0xFB then [0xFB, b ^^^ 0x10] else [b]) ++ [0xFA]) rate false } }
    (s.line.state = .gap .beacon length rate → ∀ number : Word16, s.line.beacon = some number →
        sends .beacon [0x40, lowByte number, highByte number])
    ∧ (s.line.state = .gap .answer length rate → ∀ (k : Key) (i : SlotNo) (g : Byte) (voided : Bool),
        (∀ (seq : Bool) (value : Word16) (t : Bool), s.line.answer = some ⟨.level k i g seq value t, voided⟩ →
            sends .answer [0x61, addressByte k.node, k.channel.setWidth 8 ||| seqBit seq ||| taken t,
              lowByte value, highByte value])
        ∧ (∀ t : Bool, s.line.answer = some ⟨.wait k i g t, voided⟩ →
            sends .answer [0x62, addressByte k.node, k.channel.setWidth 8 ||| taken t])
        ∧ (∀ t : Bool, s.line.answer = some ⟨.halt k i g t, voided⟩ →
            sends .answer [0x63, addressByte k.node, k.channel.setWidth 8 ||| taken t])
        ∧ (∀ reason : RefuseReason, s.line.answer = some ⟨.refuse k reason, voided⟩ →
            sends .answer [0x64, addressByte k.node, k.channel.setWidth 8,
              match reason with
              | .noNode => 1
              | .noChannel => 2
              | .nodeRetiring => 3])
        ∧ (∀ identity : Identity, s.line.answer = some ⟨.assign k.node identity, voided⟩ →
            sends .answer ([0x65, addressByte k.node] ++ bytes64 identity)))

/-- R41, R42: the send completion of the answer to a POLL. A beacon waiting is then taken (R114). -/
def Obligations.PollAnswerCompletions : Prop :=
  ∀ (s : State) (wire : List Byte) (rate : BitVec 2) (echoed : Bool) (a : InFlight), s.resetHeld = false →
    s.line.state = .sending .answer wire rate echoed → s.line.answer = some a →
    let rest : State := { s with line := { s.line with answer := none }.resting }
    (∀ k i g seq level t, a.answer = .level k i g seq level t →
        (∀ r : Record, a.voided = false → (s.slot i).record = some r → r.generation = g → r.liveSeq = seq →
            exec .levelSendCompletion s =
              .next { rest with directory := { s.directory with
                slots := s.directory.slots.set i.val { s.slot i with record := some { r with sent := true } } } })
        ∧ ((a.voided = true ∨ ∀ r ∈ (s.slot i).record, r.generation ≠ g ∨ r.liveSeq ≠ seq) →
            exec .levelSendCompletion s = .next rest))
    ∧ (((∃ k i g t, a.answer = .wait k i g t) ∨ (∃ k i g t, a.answer = .halt k i g t)
          ∨ ∃ k reason, a.answer = .refuse k reason) →
        exec .answerSendCompletion s = .next rest)

/-- R58. -/
def Obligations.AssignCompletionAssigns : Prop :=
  ∀ (s : State) (wire : List Byte) (rate : BitVec 2) (echoed : Bool) (n : NodeNo) (identity : Identity) (voided : Bool),
    s.resetHeld = false → s.line.state = .sending .answer wire rate echoed →
    s.line.answer = some ⟨.assign n identity, voided⟩ →
    let rest : State := { s with line := { s.line with answer := none }.resting }
    let matched := (s.node n).state ≠ .free ∧ (s.node n).state ≠ .retiring ∧ (s.node n).identity = some identity
    (matched →
        exec .assignSendCompletion s =
          .next { rest with
            nodes := s.nodes.set n.val { s.node n with state := .assigned, confirmRemaining := 8, silence := 0 } })
    ∧ (¬ matched → exec .assignSendCompletion s = .next rest)

/-- R94, R114: the send completion of a beacon. -/
def Obligations.BeaconCompletionTakesTheHeldRequest : Prop :=
  ∀ (s : State) (wire : List Byte) (rate : BitVec 2) (echoed : Bool), s.resetHeld = false →
    s.line.state = .sending .beacon wire rate echoed →
    exec .beaconSendCompletion s =
      .next { s with line := { s.line with beacon := s.line.held, held := none }.resting }

/-! ## Events -/

/-- R128, R129, R130: the event register and mask written, and IRQN. -/
def Obligations.EventWritesAndIrqn : Prop :=
  (∀ (s : State) (value : Word16), s.HostReady .eventRegister false →
      Leads s (.eventRegisterWrite value)
        { s with events :=
          ⟨s.events.done && !value.getLsbD 0, s.events.loadFired && !value.getLsbD 2,
           s.events.stray && !value.getLsbD 3, s.events.damage && !value.getLsbD 4,
           s.events.cycle && !value.getLsbD 5, s.events.wake && !value.getLsbD 6,
           s.events.resetNoted && !value.getLsbD 8⟩ })
  ∧ (∀ (s : State) (value : Word16), s.HostReady .eventMask false →
      Leads s (.eventMaskWrite value) { s with mask := value.setWidth 9 })
  ∧ ∀ s : State, s.irqAsserted = true ↔
      s.resetHeld = false ∧ s.clearing = false ∧
        ((s.events.done = true ∧ s.mask.getLsbD 0 = true)
        ∨ (s.attention ≠ [] ∧ s.mask.getLsbD 1 = true)
        ∨ (s.events.loadFired = true ∧ s.mask.getLsbD 2 = true)
        ∨ (s.events.stray = true ∧ s.mask.getLsbD 3 = true)
        ∨ (s.events.damage = true ∧ s.mask.getLsbD 4 = true)
        ∨ (s.events.cycle = true ∧ s.mask.getLsbD 5 = true)
        ∨ (s.events.wake = true ∧ s.mask.getLsbD 6 = true)
        ∨ (s.port.errors ≠ .reset ∧ s.mask.getLsbD 7 = true)
        ∨ (s.events.resetNoted = true ∧ s.mask.getLsbD 8 = true))

/-! ## The host serial port -/

/-- R147, R149, R150, R152, R154: the writes of the shared interface block, in the access in progress or in a frame of their own. -/
def Obligations.InterfaceBlockWrites : Prop :=
  ∀ (s : State) (value : Byte) (word : Word16),
    let config : InterfaceConfig :=
      { mode := if value.getLsbD 0 then .singleField else .streaming
        direction := if value.getLsbD 1 then .descending else .ascending
        statusSend := value.getLsbD 2
        keepLoop := value.getLsbD 3 }
    let e := s.port.errors
    (s.HostReady .errorFlags false →
        Leads s (.interfaceErrorFlagsWrite word)
          { s with port := { s.port with errors :=
            ⟨e.unknownAddress && !word.getLsbD 0, e.partialField && !word.getLsbD 1,
             e.readOnlyWrite && !word.getLsbD 2, e.crcMismatch && !word.getLsbD 3, e.bitCount && !word.getLsbD 4,
             e.notReady && !word.getLsbD 5, e.windowLocked && !word.getLsbD 6,
             e.commandRefused && !word.getLsbD 7, e.settingRefused && !word.getLsbD 8⟩ } })
    ∧ (s.HostReady .loopLength false →
        Leads s (.loopLengthWrite value) { s with port := { s.port with loopLength := value } }
        ∧ ∃ t : State, exec (.loopLengthWrite value) s = .next t ∧ t.port.loopLength = value
          ∧ (t.port.phase = .idle
            ∨ (∃ a, (t.port.phase = .data a ∨ t.port.phase = .disregard (some a)) ∧ a.loopWritten = true)
            ∨ t.port.phase = .between))
    ∧ (s.HostReady .crcEnablePair false → s.startsAtPair = true →
        (value.getLsbD 0 ≠ value.getLsbD 1 →
            Leads s (.crcEnablePairWrite value) { s with port := { s.port with crcOn := value.getLsbD 0 } })
        ∧ (value.getLsbD 0 = value.getLsbD 1 → Leads s (.crcEnablePairWrite value) s))
    ∧ (s.HostReady .crcEnablePair false → s.startsAtPair = false →
        Leads s (.crcEnablePairWrite value)
          { s with port := { s.port with errors := { e with readOnlyWrite := true } } })
    ∧ (s.HostReady .interfaceControl false →
        (¬ (value.getLsbD 6 = true ∧ value.getLsbD 7 = true) →
            Leads s (.interfaceControlWrite value) { s with port := { s.port with config := config } })
        ∧ Leads s (.softResetRequest value) { s with port := { s.port with config := config, softReset := true } }
        ∧ ∃ (t : State) (a : Access), exec (.softResetRequest value) s = .next t ∧ t.port.softReset = true
          ∧ t.port.phase = .disregard (some a))

/-- R134, R144, R145, R150, R151: a run of bytes written from an address on. A whole field is judged, and where it has a row of its own the write is that row. A run in a frame of its own that ends inside a field sets PARTIAL FIELD, and one entered inside it that reaches its last byte is judged there too. In an access in progress the run is its bytes on SDI. That a row is a frame of its own when CSN is high is the model's choice (log 4). -/
def Obligations.RegisterWriteIsJudged : Prop :=
  ∀ (s : State) (address : HostAddr) (bytes : List Byte) (crc : Byte),
    let row := Instr.registerWrite address bytes crc
    let f := fieldAt address
    let length := bytes.length
    let e := s.port.errors
    let sdi := match s.rowDirection with
      | .ascending => bytes
      | .descending => bytes.reverse
    let flagged : ErrorFlags → State := fun x => { s with port := { s.port with errors := x } }
    (s.HostReady f false → f.base = address → length = f.length →
      let crcGood := s.fieldCrcMatches f bytes crc = true
      let w := s.command.window
      let isRow : Instr → Prop := fun own => exec row s = exec own s
      (f.readOnly = true →
        (crcGood → Leads s row (flagged { e with readOnlyWrite := true }))
        ∧ (¬ crcGood → TurnedAway s row (flagged { e with readOnlyWrite := true, crcMismatch := true })))
      ∧ (f = .unknown address →
        (crcGood → Leads s row (flagged { e with unknownAddress := true }))
        ∧ (¬ crcGood → TurnedAway s row (flagged { e with unknownAddress := true, crcMismatch := true })))
      ∧ (f = .crcEnablePair → ¬ crcGood →
          TurnedAway s row (flagged { e with readOnlyWrite := true, crcMismatch := true }))
      ∧ (f.readOnly = false → f ≠ .unknown address → f ≠ .crcEnablePair → ¬ crcGood →
          TurnedAway s row (flagged { e with crcMismatch := true }))
      ∧ (crcGood → address = 0x0034 ∨ (0x0050 ≤ address ∧ address ≤ 0x005F) → s.command.state ≠ .idle →
          Leads s row (flagged { e with windowLocked := true }))
      ∧ (crcGood → s.command.state = .idle →
          let leads : CommandUnit → Prop := fun c => Leads s row { s with command := c }
          (∀ b0 b1 b2 b3 : Byte, address = 0x0034 → bytes = [b0, b1, b2, b3] →
              leads { s.command with argument := b3 ++ b2 ++ b1 ++ b0 })
          ∧ (∀ b0 b1 b2 b3 b4 b5 b6 b7 : Byte, address = 0x0050 → bytes = [b0, b1, b2, b3, b4, b5, b6, b7] →
              leads { s.command with window := { w with identity := b7 ++ b6 ++ b5 ++ b4 ++ b3 ++ b2 ++ b1 ++ b0 } })
          ∧ (∀ lo hi : Byte, bytes = [lo, hi] →
              (address = 0x0058 → leads { s.command with window := { w with first := hi ++ lo } })
              ∧ (address = 0x005A → leads { s.command with window := { w with second := hi ++ lo } }))
          ∧ (∀ b : Byte, bytes = [b] →
              (address = 0x005C → leads { s.command with window := { w with select := b } })
              ∧ (address = 0x005D → leads { s.command with window := { w with group := b } })
              ∧ (address = 0x005E → leads { s.command with window := { w with permit := b } })
              ∧ (address = 0x005F → leads { s.command with window := { w with demand := b } })))
      ∧ (∀ b : Byte, bytes = [b] →
          (address = 0x0002 → crcGood → isRow (.crcEnablePairWrite b))
          ∧ (crcGood →
              (address = 0x0000 → ¬ (b.getLsbD 6 = true ∧ b.getLsbD 7 = true) → isRow (.interfaceControlWrite b))
              ∧ (address = 0x0000 → b.getLsbD 6 = true → b.getLsbD 7 = true → isRow (.softResetRequest b))
              ∧ (address = 0x0001 → isRow (.loopLengthWrite b))
              ∧ (address = 0x0020 → isRow (.cycleControlWrite b)) ∧ (address = 0x0021 → isRow (.cyclePeriodWrite b))
              ∧ (address = 0x0022 → isRow (.lineRateWrite b)) ∧ (address = 0x0023 → isRow (.answerGapWrite b))
              ∧ (address = 0x0030 →
                  (∀ (code : Byte) (own : Instr), (code, own) ∈ ([(0x01, .lookup), (0x02, .readSlot), (0x03, .insert),
                      (0x04, .amend), (0x05, .retire), (0x06, .find), (0x11, .readNode), (0x12, .offer),
                      (0x13, .retireNode), (0x21, .load), (0x22, .schedule), (0x23, .unschedule),
                      (0x3F, .abort)] : List (Byte × Instr)) → b = code → isRow own)
                  ∧ (b ∉ commandCodes → isRow (.badCommand b)))))
      ∧ (crcGood → ∀ lo hi : Byte, bytes = [lo, hi] →
          (address = 0x0004 → isRow (.interfaceErrorFlagsWrite (hi ++ lo)))
          ∧ (address = 0x0010 → isRow (.eventRegisterWrite (hi ++ lo)))
          ∧ (address = 0x0012 → isRow (.eventMaskWrite (hi ++ lo)))
          ∧ (address = 0x0024 → isRow (.answerRangeWrite lo hi))))
    ∧ (let start : HostAddr := match s.rowDirection with
        | .ascending => address
        | .descending => address + BitVec.ofNat 13 (length - 1)
      let last : Bool := match s.rowDirection with
        | .ascending => address.toNat + length == f.base.toNat + f.length
        | .descending => address == f.base
      s.admitsAt start false = true → s.accessInClear = false → (s.rowAccess false start).uncut length = true →
      bytes ≠ [] → address.toNat + length ≤ f.base.toNat + f.length → (f.base ≠ address ∨ length < f.length) →
      (s.port.phase = .idle →
        let p := s.rowPort false start
        let crcByte := last && s.port.crcOn
        exec row s =
          .next { s with
            take := if last then s.take else none
            line := { s.line with damagedLatch := if last then s.line.damagedLatch else none }
            port := { p with
              phase := .idle
              loopLength := if s.port.config.keepLoop then s.port.loopLength else 0
              sdo := p.sdo ++ List.replicate (length + if crcByte then 1 else 0) .highZ
              errors := { e with
                partialField := true
                readOnlyWrite := e.readOnlyWrite || (last && f.readOnly)
                crcMismatch := e.crcMismatch || (crcByte && crc8 (address.setWidth 8) sdi != crc) } } })
      ∧ (∀ a, s.port.phase = .data a → last = false → exec row s = exec (.instructionPhase sdi) s))
    ∧ (∀ a, s.port.phase = .data a → s.port.frameCrc = false →
        s.admitsAt (match s.rowDirection with
          | .ascending => address
          | .descending => address + BitVec.ofNat 13 (length - 1)) false = true →
        exec row s = exec (.instructionPhase sdi) s)

/-- R122, spec/10: the first byte of a take field read latches all four bytes; SDO carries the lowest in an ascending transfer and the highest in a descending one, and the access holds the others to be sent. -/
def Obligations.TakeLatchesTheHead : Prop :=
  ∀ s : State, s.HostReady .takeField true →
    let latches : TakeLatch → Byte → Byte → Byte → Byte → Prop := fun latch b0 b1 b2 b3 =>
      exec .takeFieldLatch s =
        .next { s with
          take := some latch
          port := match s.rowDirection with
            | .ascending => s.portLatched .takeField b0 [b1, b2, b3]
            | .descending => s.portLatched .takeField b3 [b2, b1, b0] }
    let bit : Bool → BitVec 1 := BitVec.ofBool
    (s.attention = [] → latches .noSubject 0 0 0 0)
    ∧ (∀ (i : SlotNo) (rest : List Subject) (r : Record), s.attention = .record i :: rest →
        (s.slot i).record = some r →
        latches (.record i r.generation r.reasons .none false)
          1 (BitVec.ofNat 8 i.val) r.generation
          (bit (decide (256 ≤ i.val)) ++ 0#4 ++ bit r.reasons.pendingPoll ++ bit r.reasons.reported
            ++ bit r.reasons.delivered))
    ∧ (∀ (n : NodeNo) (rest : List Subject), s.attention = .node n :: rest →
        let x := (s.node n).reasons
        latches (.node n x .none false)
          2 (BitVec.ofNat 8 (nodeAddress n)) 0
          (0#1 ++ bit x.announced ++ bit x.status ++ bit x.unconfirmed ++ bit x.offerExpired ++ bit x.returned
            ++ bit x.silent ++ bit x.bound))

/-- R123, R125: the other bytes of a take field read, up to the last. SDO carries the rest of the latch, as TakeLatchesTheHead states its bytes. -/
def Obligations.TakeCompletionRemovesTheLatchedReasons : Prop :=
  ∀ (s : State) (a : Access) (t : Transfer) (latch : TakeLatch), s.Reading .takeField a t → a.duringClear = false →
    s.take = some latch →
    let leads : State → Prop := fun u =>
      exec .takeFieldCompletion s =
        .next { u with take := none, port := s.portRead .takeField a t { u with take := none } }
    (latch = .noSubject → leads s)
    ∧ (∀ i g latched since gone, latch = .record i g latched since gone →
        ((gone = true ∨ .record i ∉ s.attention ∨ (s.slot i).record = none) → leads s)
        ∧ (∀ r : Record, gone = false → .record i ∈ s.attention → (s.slot i).record = some r →
            let left := r.reasons.minus (latched.minus since)
            let others := s.attention.filter (· != .record i)
            leads { s with
              directory := { s.directory with
                slots := s.directory.slots.set i.val { s.slot i with record := some { r with reasons := left } } }
              attention := if left.isEmpty then others else others ++ [.record i] }))
    ∧ (∀ n latched since gone, latch = .node n latched since gone →
        ((gone = true ∨ .node n ∉ s.attention) → leads s)
        ∧ (gone = false → .node n ∈ s.attention →
            let left := (s.node n).reasons.minus (latched.minus since)
            let others := s.attention.filter (· != .node n)
            leads { s with
              nodes := s.nodes.set n.val { s.node n with reasons := left }
              attention := if left.isEmpty then others else others ++ [.node n] }))

/-- R111: the read of the damaged-frame count, at its first byte and at its last. -/
def Obligations.DamagedCountReadKeepsLaterDamage : Prop :=
  (∀ s : State, s.HostReady .damagedCount true →
    let low := BitVec.ofNat 8 s.line.damaged
    let high := BitVec.ofNat 8 (s.line.damaged / 256)
    exec .damagedCountReadLatch s =
      .next { s with
        line := { s.line with damagedLatch := some ⟨s.line.damaged, 0⟩ }
        port := match s.rowDirection with
          | .ascending => s.portLatched .damagedCount low [high]
          | .descending => s.portLatched .damagedCount high [low] })
  ∧ (∀ (s : State) (a : Access) (t : Transfer) (d : DamagedLatch), s.Reading .damagedCount a t →
      a.duringClear = false → s.line.damagedLatch = some d →
      let u : State := { s with line := { s.line with damaged := d.since, damagedLatch := none } }
      exec .damagedCountReadCompletion s = .next { u with port := s.portRead .damagedCount a t u })

/-- R142 to R151, R153, R155: an instruction phase, at the start of a frame or behind a field in single-field mode, and the data phase that it opens, byte by byte. `clockByte` is one whole byte on SDI. The status sent is that of the start of the instruction phase, which behind a field is the next byte; that the first of a frame starts as CSN falls is the model's reading (log 28). That an access the part does not take is followed silently in single-field mode is the model's reading (log 13), that an instruction CRC that fails during the start-up clear sets NOT READY beside CRC MISMATCH, and that no other interface error is set during it, are readings of R155 (log 10), that a shared write ceases as if nothing had been taken is one of R142 (log 9, log 11). That the rest of a frame in which RSTN was low is disregarded is the model's (log 20). -/
def Obligations.InstructionPhaseOpensAnAccess : Prop :=
  (∀ (s t : State) (sdi : List Byte) (b : Byte), exec (.instructionPhase sdi) s = .next t →
      exec (.instructionPhase (sdi ++ [b])) s = .next (t.clockByte b))
  ∧ (∀ s : State, s.port.phase = .idle →
      let falls : PortPhase → Bool → Prop := fun phase crcOn =>
        exec (.instructionPhase []) s =
          .next { s with port := { s.port with phase := phase, frameCrc := crcOn, sdo := [] } }
      (s.resetHeld = true → falls (.disregard none) s.port.frameCrc)
      ∧ (s.resetHeld = false →
          falls (.instruction none ⟨s.summary.extractLsb' 0 5, lowByte s.cycle.counter⟩) s.port.crcOn))
  ∧ (∀ (s : State) (access : Option Access) (sdi : Byte), s.port.phase = .disregard access →
      s.clockByte sdi = { s with port := { s.port with sdo := s.port.sdo ++ [.highZ] } })
  ∧ (∀ (s : State) (first : Byte) (st : StatusBytes) (crcOn : Bool) (before : List Sdo),
      let now : StatusBytes := ⟨s.summary.extractLsb' 0 5, lowByte s.cycle.counter⟩
      (s.port.phase = .idle ∧ s.resetHeld = false ∧ st = now ∧ crcOn = s.port.crcOn ∧ before = [])
        ∨ (s.port.phase = .between ∧ st = now ∧ crcOn = s.port.frameCrc ∧ before = s.port.sdo)
        ∨ (s.port.phase = .instruction none st ∧ crcOn = s.port.frameCrc ∧ before = s.port.sdo) →
      let own := first.extractLsb' 5 2 == s.port.chipCode
      exec (.instructionPhase [first]) s =
        .next { s with port :=
          { s.port with
            frameCrc := crcOn
            phase := .instruction (some first) st
            sdo := before ++ [if s.port.config.statusSend && own then .status st.first else .highZ] } })
  ∧ (∀ (s : State) (first second : Byte) (inClear : Bool),
      let address : HostAddr := first.extractLsb' 0 5 ++ second
      let isRead := first.getLsbD 7
      let own := first.extractLsb' 5 2 == s.port.chipCode
      let shared := !isRead && decide (address ≤ 0x000F)
      let pair := !isRead && address == 0x0002
      let access : Access :=
        { taken := own || shared, isRead := isRead, sharedOnly := !own, start := address, addr := address, count := 0
          mode := s.port.config.mode, direction := s.port.config.direction, loop := s.port.loopLength.toNat
          keepLoop := s.port.config.keepLoop, duringClear := inClear, loopWritten := false, alone := false
          transfer := none }
      let away := access.taken && inClear && !(isRead && fieldAt address == .summary)
      let e := { s.port.errors with notReady := s.port.errors.notReady || away }
      (∀ st, s.port.phase = .instruction (some first) st → inClear = st.first.getLsbD 0 →
          let opened : PortPhase → ErrorFlags → Prop := fun phase errors =>
            exec (.instructionPhase [second]) s =
              .next { s with port :=
                { s.port with
                  phase := phase
                  errors := errors
                  sdo := s.port.sdo ++ [if s.port.config.statusSend && own then .byte st.second else .highZ] } }
          (access.taken = false → access.mode = .streaming → opened (.disregard none) s.port.errors)
          ∧ (access.taken = true ∨ access.mode = .singleField →
              (s.port.frameCrc = false ∨ pair = true → opened (.data access) e)
              ∧ (s.port.frameCrc = true → pair = false → opened (.hostCrc first second inClear) s.port.errors)))
      ∧ (s.port.phase = .hostCrc first second inClear → ∀ crc : Byte,
          let opened : PortPhase → ErrorFlags → Prop := fun phase errors =>
            exec (.instructionPhase [crc]) s =
              .next { s with port := { s.port with phase := phase, errors := errors, sdo := s.port.sdo ++ [.highZ] } }
          (access.taken = false ∨ crc8 0x3C [first, second] = crc → opened (.data access) e)
          ∧ (access.taken = true → crc8 0x3C [first, second] ≠ crc →
              opened (.disregard (some access)) { e with crcMismatch := true })))
  ∧ (∀ (s : State) (a : Access) (sdi : Byte), s.port.phase = .data a → a.taken = true →
      a.sharedOnly = true → sharedAddr a.addr = false →
      s.clockByte sdi =
        { s with port := { s.port with
          phase := .disregard none
          loopLength := if a.keepLoop || a.loopWritten then s.port.loopLength else 0
          sdo := s.port.sdo ++ [.highZ] } })
  ∧ (∀ (s : State) (a : Access) (sdi : Byte), s.port.phase = .data a → a.taken = true → a.transfer = none →
      (a.sharedOnly = true → sharedAddr a.addr = true) →
      let f := fieldAt a.addr
      let middle := a.addr != f.first a.direction
      let left := match a.direction with
        | .ascending => f.base.toNat + f.length - a.addr.toNat
        | .descending => a.addr.toNat - f.base.toNat + 1
      let e := s.port.errors
      let errors : ErrorFlags :=
        if a.duringClear then { e with notReady := e.notReady || !(a.isRead && f == .summary) }
        else
          { e with partialField := e.partialField || middle, unknownAddress := e.unknownAddress || f == .unknown a.addr }
      let acts := a.isRead && !middle && !a.duringClear
      let begun : State :=
        { s with
          take := if acts && f == .takeField then s.latchTake.take else s.take
          line := if acts && f == .damagedCount then { s.line with damagedLatch := some ⟨s.line.damaged, 0⟩ } else s.line
          port := { s.port with errors := errors } }
      let latch : List Byte :=
        if !a.isRead then []
        else if a.duringClear then (if f = .summary then [s.summary] else List.replicate left 0)
        else if middle then List.replicate left 0
        else match a.direction with
          | .ascending => begun.readField f
          | .descending => (begun.readField f).reverse
      let transfer : Transfer :=
        { field := f, middle := middle, left := left, latch := latch, crossed := []
          lowest := match a.direction with
            | .ascending => a.addr
            | .descending => f.base }
      s.clockByte sdi =
        State.clockByte { begun with port := { begun.port with phase := .data { a with transfer := some transfer } } } sdi)
  ∧ (∀ (s : State) (a : Access) (t : Transfer) (sdi : Byte), s.port.phase = .data a → a.taken = true →
      a.transfer = some t → (a.sharedOnly = true → sharedAddr a.addr = true) →
      let out : Sdo := if a.isRead then .byte (t.latch.headD 0) else .highZ
      let loops := a.mode = .streaming ∧ a.loop ≠ 0 ∧ (a.count + 1) % a.loop = 0
      let t' : Transfer :=
        { t with
          left := t.left - 1, latch := t.latch.tail
          crossed := t.crossed ++ [if a.isRead then t.latch.headD 0 else sdi] }
      let a' : Access :=
        { a with
          count := a.count + 1, transfer := none
          addr :=
            if loops then a.start
            else match a.direction with
              | .ascending => a.addr + 1
              | .descending => if a.addr = 0 then 0x1BFF else a.addr - 1 }
      let sent : State := { s with port := { s.port with sdo := s.port.sdo ++ [out] } }
      (2 ≤ t.left → ¬ loops →
          s.clockByte sdi = { sent with port := { sent.port with phase := .data { a' with transfer := some t' } } })
      ∧ (2 ≤ t.left → loops →
          s.clockByte sdi =
            { sent with
              take := none
              line := { s.line with damagedLatch := none }
              port := { sent.port with
                phase := .data a'
                errors := { s.port.errors with
                  partialField := s.port.errors.partialField || !a.duringClear } } })
      ∧ (t.left = 1 →
          let ended : State :=
            if a.duringClear then sent
            else if a.isRead then
              (if t.middle then sent
                else if t.field = .takeField then sent.completeTake
                else if t.field = .damagedCount then sent.completeDamaged
                else sent)
            else
              { sent with port := { sent.port with errors := { s.port.errors with
                readOnlyWrite := s.port.errors.readOnlyWrite
                  || t.field.readOnly || (t.field == .crcEnablePair && !a.atPair) } } }
          s.clockByte sdi =
            if s.port.frameCrc && !a.atPair then { ended with port := { ended.port with phase := .fieldCrc a' t' } }
            else ended.applyAndGoOn a' t'))
  ∧ (∀ (s : State) (a : Access) (t : Transfer) (sdi : Byte), s.port.phase = .fieldCrc a t → a.taken = true →
      let crc := crc8 (t.lowest.setWidth 8) t.crossed
      let sent : Sdo → ErrorFlags → State := fun out errors =>
        { s with port := { s.port with sdo := s.port.sdo ++ [out], errors := errors } }
      let behind : State → State := fun u => { u with port := u.portBehind a false }
      (a.isRead = true → s.clockByte sdi = behind (sent (.byte crc) s.port.errors))
      ∧ (a.isRead = false → sdi = crc → s.clockByte sdi = (sent .highZ s.port.errors).applyAndGoOn a t)
      ∧ (a.isRead = false → sdi ≠ crc →
          s.clockByte sdi = behind (sent .highZ { s.port.errors with crcMismatch := true })))
  ∧ (∀ (s : State) (a : Access) (t : Transfer), a.taken = true →
      let applies := !a.isRead && !a.duringClear && !t.middle
      let bytes := match a.direction with
        | .ascending => t.crossed
        | .descending => t.crossed.reverse
      let applied : State :=
        if applies then
          (if a.atPair && t.field == .crcEnablePair then
            (if (t.crossed.headD 0).getLsbD 0 = (t.crossed.headD 0).getLsbD 1 then s
              else { s with port := { s.port with crcOn := (t.crossed.headD 0).getLsbD 0 } })
            else s.applyField t.field bytes)
        else s
      let a' : Access := { a with loopWritten := a.loopWritten || (applies && t.field == .loopLength) }
      s.applyAndGoOn a t = { applied with port := applied.portBehind a' false })
  ∧ (∀ (s : State) (a : Access) (sdi : Byte), s.port.phase = .data a → a.taken = false → a.mode = .singleField →
      s.port.softReset = false →
      let f := fieldAt a.addr
      let left := match a.transfer with
        | some t => t.left
        | none => (match a.direction with
          | .ascending => f.base.toNat + f.length - a.addr.toNat
          | .descending => a.addr.toNat - f.base.toNat + 1)
      let a' : Access :=
        { a with
          count := a.count + 1, transfer := none
          addr := match a.direction with
            | .ascending => a.addr + 1
            | .descending => if a.addr = 0 then 0x1BFF else a.addr - 1 }
      ∃ t : Transfer, t.left = left - 1 ∧
        s.clockByte sdi =
          { s with port := { s.port with
            sdo := s.port.sdo ++ [.highZ]
            phase :=
              if 2 ≤ left then .data { a' with transfer := some t }
              else if s.port.frameCrc && !a.atPair then .fieldCrc a' t
              else .between } })
  ∧ (∀ (s : State) (a : Access) (t : Transfer) (sdi : Byte), s.port.phase = .fieldCrc a t → a.taken = false →
      a.mode = .singleField → s.port.softReset = false →
      s.clockByte sdi = { s with port := { s.port with phase := .between, sdo := s.port.sdo ++ [.highZ] } })

/-- R143, R145, R147, R148, R154: CSN rises, wherever the frame stands, after any bits since the last whole byte: whether BIT COUNT and PARTIAL FIELD are set, and the end of the term of the loop length; and the soft reset that was requested, which comes after that end (log 11). A write whose CRC byte is missing is not applied and no partial field (log 12). Which bits are compared in a first instruction byte that is cut, that a cut CRC byte of an instruction and the rest of a shared write that ceased set no BIT COUNT (log 9), that bits after the last whole byte begin no field (log 12), and that a rise with CSN high has no occasion (log 3) are the model's. -/
def Obligations.CsnRiseEndsTheFrame : Prop :=
  (∀ (s : State) (tail : List Bool), s.resetHeld = false → s.port.softReset = false →
      let e := s.port.errors
      let chip := s.port.chipCode
      let rises : State → Prop := fun t => exec (.csnRise tail) s = .next t
      let ended : Bool → Byte → State := fun mine loopLength =>
        { s with port := { s.port with
          phase := .idle
          loopLength := loopLength
          errors := { e with bitCount := e.bitCount || (mine && !tail.isEmpty) } } }
      let left : Access → Byte := fun a =>
        if a.taken = true ∧ a.keepLoop = false ∧ a.loopWritten = false then 0 else s.port.loopLength
      (s.port.phase = .idle → rises s)
      ∧ ((s.port.phase = .between ∨ ∃ st, s.port.phase = .instruction none st) →
          rises (ended (decide ((∀ b ∈ tail[1]?, b = chip.getLsbD 1) ∧ ∀ b ∈ tail[2]?, b = chip.getLsbD 0))
            s.port.loopLength))
      ∧ (∀ first st, s.port.phase = .instruction (some first) st →
          rises (ended (first.extractLsb' 5 2 == chip) s.port.loopLength))
      ∧ (∀ first second inClear, s.port.phase = .hostCrc first second inClear →
          rises (ended false s.port.loopLength))
      ∧ (∀ a, s.port.phase = .data a →
          let cut := a.taken && !a.duringClear && a.transfer.isSome
          let t := ended a.taken (left a)
          rises { t with
            take := if cut then none else s.take
            line := { s.line with damagedLatch := if cut then none else s.line.damagedLatch }
            port := { t.port with errors := { t.port.errors with partialField := e.partialField || cut } } })
      ∧ (∀ a t, s.port.phase = .fieldCrc a t → rises (ended a.taken (left a)))
      ∧ (s.port.phase = .disregard none → rises (ended false s.port.loopLength))
      ∧ (∀ a, s.port.phase = .disregard (some a) → rises (ended a.taken (left a))))
  ∧ (∀ (s : State) (tail : List Bool), s.resetHeld = true →
      exec (.csnRise tail) s = .next { s with port := { s.port with phase := .idle } })
  ∧ (∀ (s : State) (access : Option Access) (tail : List Bool), s.resetHeld = false → s.port.softReset = true →
      s.port.phase = .disregard access →
      exec (.csnRise tail) s =
        .next { State.reset with
          pending := s.pending
          port := { HostPort.reset with
            config := s.port.config
            loopLength := match access with
              | some a => if a.taken && !(a.keepLoop || a.loopWritten) then 0 else s.port.loopLength
              | none => s.port.loopLength
            crcOn := s.port.crcOn
            chipCode := s.port.chipCode
            sdo := s.port.sdo } })

/-- R118, R130, R154, R155: the rows of the resets. That a frame left open by the RESET pin stays disregarded, and what is held while RSTN is low, is the model's reading (log 8, log 20). -/
def Obligations.ResetsRestoreResetValues : Prop :=
  ∀ (s : State) (straps : BitVec 2),
    exec (.powerOnReset straps) s =
      .next { State.reset with port := { HostPort.reset with chipCode := straps }, pending := s.pending }
    ∧ (∃ phase : PortPhase, (phase = .idle ∨ phase = .disregard none) ∧
        exec (.resetPinRelease straps) s =
          .next { State.reset with
            port := { HostPort.reset with chipCode := straps, phase := phase }, pending := s.pending })
    ∧ (∃ t : State, exec .resetPinAssert s = .next t ∧ t.resetHeld = true ∧ t.driverEnabled = false
        ∧ t.irqAsserted = false ∧ t.events = .reset ∧ t.mask = 0x100 ∧ t.take = none ∧ t.line.answer = none
        ∧ t.line.beacon = none ∧ t.line.held = none ∧ t.line.state = .listen)
    ∧ (s.resetHeld = false → s.clearing = true →
        exec .startUpClearCompletion s =
          .next { s with clearing := false, events := { s.events with resetNoted := true } })

/-- R155: a write or a read that acts during the start-up clear sets NOT READY and has no other effect, but that a host CRC byte that fails sets CRC MISMATCH; a read sends bytes of 0. That no other interface error is set is the model's reading (log 10). -/
def Obligations.AccessDuringTheClearIsNotReady : Prop :=
  ∀ s : State,
    let notReady := { s.port.errors with notReady := true }
    let flagged : ErrorFlags → State := fun x => { s with port := { s.port with errors := x } }
    (s.accessInClear = true →
      (∀ (i : Instr) (f : Field), writtenField i = some f → s.FieldNext f false →
          (∀ address bytes crc, i ≠ .registerWrite address bytes crc) → TurnedAway s i (flagged notReady))
      ∧ (∀ (address : HostAddr) (bytes : List Byte) (crc : Byte), s.FieldNext (fieldAt address) false →
          (fieldAt address).base = address → bytes.length = (fieldAt address).length →
          (s.fieldCrcMatches (fieldAt address) bytes crc = true →
              TurnedAway s (.registerWrite address bytes crc) (flagged notReady))
          ∧ (s.fieldCrcMatches (fieldAt address) bytes crc = false →
              TurnedAway s (.registerWrite address bytes crc) (flagged { notReady with crcMismatch := true })))
      ∧ (∀ (i : Instr) (f : Field),
          (i, f) ∈ ([(.takeFieldLatch, .takeField), (.damagedCountReadLatch, .damagedCount)] : List (Instr × Field)) →
          s.FieldNext f true →
          exec i s =
            .next { s with port := { s.portLatched f 0 (List.replicate (f.length - 1) 0) with errors := notReady } }))
    ∧ (∀ (i : Instr) (f : Field) (a : Access) (t : Transfer),
        (i, f) ∈ ([(.takeFieldCompletion, .takeField), (.damagedCountReadCompletion, .damagedCount)]
          : List (Instr × Field)) →
        s.Reading f a t → a.duringClear = true → exec i s = .next { s with port := s.portRead f a t s })

/-! ## The laws of the machine -/

/-- The laws hold right after reset. -/
def Obligations.LawsHoldAtReset : Prop :=
  State.reset.CycleLaw ∧ State.reset.SettingsLaw ∧ State.reset.ScheduleLaw ∧ State.reset.DeliveryLaw
  ∧ State.reset.NodeLaw ∧ State.reset.IdentityLaw ∧ State.reset.RangeLaw ∧ State.reset.CascadeLaw
  ∧ State.reset.AttentionLaw ∧ State.reset.LineLaw ∧ State.reset.IndexLaw ∧ State.reset.CountLaw

/-- R88, R90, R98, R104, R111, R116, R78: the laws of the cycle unit, of the line settings and of the schedule are kept by every step. -/
def Obligations.CycleAndScheduleLawsAreKept : Prop :=
  ∀ s t : State, s.CycleLaw ∧ s.SettingsLaw ∧ s.ScheduleLaw → step s = .next t →
    t.CycleLaw ∧ t.SettingsLaw ∧ t.ScheduleLaw

/-- R5: delivered only while sent, sent only while a live level is present, in every record, is kept by every step. -/
def Obligations.DeliveryLawIsKept : Prop :=
  ∀ s t : State, s.DeliveryLaw → step s = .next t → t.DeliveryLaw

/-- R48, R63, R69: the laws of the node table are kept by every step. -/
def Obligations.NodeTableLawsAreKept : Prop :=
  ∀ s t : State, s.NodeLaw ∧ s.IdentityLaw ∧ s.RangeLaw ∧ s.CascadeLaw → step s = .next t →
    t.NodeLaw ∧ t.IdentityLaw ∧ t.RangeLaw ∧ t.CascadeLaw

/-- R119: a subject is on the attention list exactly when its reason set is not empty, and at most once; kept by every step. -/
def Obligations.AttentionLawIsKept : Prop :=
  ∀ s t : State, s.AttentionLaw → step s = .next t → t.AttentionLaw

/-- R112, R114: an answer is in flight exactly while the controller is in GAP or SENDING for it, and a beacon waits only where it may; kept by every step. -/
def Obligations.LineLawIsKept : Prop :=
  ∀ s t : State, s.LineLaw → step s = .next t → t.LineLaw

/-- R1, R2, R3, R49: the key index, the generations, the occupancy count and the record counts agree with the slots; kept by every step. -/
def Obligations.DirectoryLawsAreKept : Prop :=
  ∀ s t : State, s.IndexLaw ∧ s.CountLaw → step s = .next t → t.IndexLaw ∧ t.CountLaw

/-! ## Frames -/

/-- R105 to R109, R158: a frame built in the layout of its kind, sent byte by byte on the line, is read back as what it was built from. That the row START_MARKER carries the bytes that follow the marker is the model's choice (log 23). -/
def Obligations.FramesOnTheLineAreReadBack : Prop :=
  ∀ s : State, s.Listening →
    let arriving : List Byte → Host.Outcome State Fault Refusal := fun content =>
      exec (.startMarker (onLine (wireFrame (withCrc content)).tail)) s
    (∀ p : PollFrame, arriving (pollBody p) = exec (.poll p) s)
    ∧ (∀ body : List Byte, 12 ≤ body.length → body.length ≤ 64 →
        arriving (announceContent body) = exec (.announce body) s)
    ∧ (∀ number : Word16, arriving (beaconBody number) = exec (.beacon number) s)
    ∧ (∀ (k : Key) (i : SlotNo) (g : Byte) (seq t : Bool) (level : Word16) (reason : RefuseReason) (identity : Identity),
        arriving (Answer.level k i g seq level t).body = exec (.ignoredAnswerKind .level) s
        ∧ arriving (Answer.wait k i g t).body = exec (.ignoredAnswerKind .wait) s
        ∧ arriving (Answer.halt k i g t).body = exec (.ignoredAnswerKind .halt) s
        ∧ arriving (Answer.refuse k reason).body = exec (.ignoredAnswerKind .refuse) s
        ∧ arriving (Answer.assign k.node identity).body = exec (.ignoredAnswerKind .assign) s)

end
end

