-- ==== Sys2Proof/Laws/State.lean ====
section
/-! SUPPORT. Reading each field of the state after each update, and slots and node entries after an update of one of them. -/

namespace Sys2Proof.Laws

open Sys2Proof.Machine

/-! ## setSlot -/

@[simp] theorem directory_setSlot (s : State) (i : SlotNo) (x : Slot) : (s.setSlot i x).directory = { s.directory with slots := s.directory.slots.set i.val x } := rfl
@[simp] theorem nodes_setSlot (s : State) (i : SlotNo) (x : Slot) : (s.setSlot i x).nodes = s.nodes := rfl
@[simp] theorem schedule_setSlot (s : State) (i : SlotNo) (x : Slot) : (s.setSlot i x).schedule = s.schedule := rfl
@[simp] theorem lastFired_setSlot (s : State) (i : SlotNo) (x : Slot) : (s.setSlot i x).lastFired = s.lastFired := rfl
@[simp] theorem cycle_setSlot (s : State) (i : SlotNo) (x : Slot) : (s.setSlot i x).cycle = s.cycle := rfl
@[simp] theorem line_setSlot (s : State) (i : SlotNo) (x : Slot) : (s.setSlot i x).line = s.line := rfl
@[simp] theorem attention_setSlot (s : State) (i : SlotNo) (x : Slot) : (s.setSlot i x).attention = s.attention := rfl
@[simp] theorem take_setSlot (s : State) (i : SlotNo) (x : Slot) : (s.setSlot i x).take = s.take := rfl
@[simp] theorem events_setSlot (s : State) (i : SlotNo) (x : Slot) : (s.setSlot i x).events = s.events := rfl
@[simp] theorem mask_setSlot (s : State) (i : SlotNo) (x : Slot) : (s.setSlot i x).mask = s.mask := rfl
@[simp] theorem stray_setSlot (s : State) (i : SlotNo) (x : Slot) : (s.setSlot i x).stray = s.stray := rfl
@[simp] theorem command_setSlot (s : State) (i : SlotNo) (x : Slot) : (s.setSlot i x).command = s.command := rfl
@[simp] theorem port_setSlot (s : State) (i : SlotNo) (x : Slot) : (s.setSlot i x).port = s.port := rfl
@[simp] theorem clearing_setSlot (s : State) (i : SlotNo) (x : Slot) : (s.setSlot i x).clearing = s.clearing := rfl
@[simp] theorem resetHeld_setSlot (s : State) (i : SlotNo) (x : Slot) : (s.setSlot i x).resetHeld = s.resetHeld := rfl
@[simp] theorem pending_setSlot (s : State) (i : SlotNo) (x : Slot) : (s.setSlot i x).pending = s.pending := rfl

/-! ## setNode -/

@[simp] theorem directory_setNode (s : State) (n : NodeNo) (e : NodeEntry) : (s.setNode n e).directory = s.directory := rfl
@[simp] theorem nodes_setNode (s : State) (n : NodeNo) (e : NodeEntry) : (s.setNode n e).nodes = s.nodes.set n.val e := rfl
@[simp] theorem schedule_setNode (s : State) (n : NodeNo) (e : NodeEntry) : (s.setNode n e).schedule = s.schedule := rfl
@[simp] theorem lastFired_setNode (s : State) (n : NodeNo) (e : NodeEntry) : (s.setNode n e).lastFired = s.lastFired := rfl
@[simp] theorem cycle_setNode (s : State) (n : NodeNo) (e : NodeEntry) : (s.setNode n e).cycle = s.cycle := rfl
@[simp] theorem line_setNode (s : State) (n : NodeNo) (e : NodeEntry) : (s.setNode n e).line = s.line := rfl
@[simp] theorem attention_setNode (s : State) (n : NodeNo) (e : NodeEntry) : (s.setNode n e).attention = s.attention := rfl
@[simp] theorem take_setNode (s : State) (n : NodeNo) (e : NodeEntry) : (s.setNode n e).take = s.take := rfl
@[simp] theorem events_setNode (s : State) (n : NodeNo) (e : NodeEntry) : (s.setNode n e).events = s.events := rfl
@[simp] theorem mask_setNode (s : State) (n : NodeNo) (e : NodeEntry) : (s.setNode n e).mask = s.mask := rfl
@[simp] theorem stray_setNode (s : State) (n : NodeNo) (e : NodeEntry) : (s.setNode n e).stray = s.stray := rfl
@[simp] theorem command_setNode (s : State) (n : NodeNo) (e : NodeEntry) : (s.setNode n e).command = s.command := rfl
@[simp] theorem port_setNode (s : State) (n : NodeNo) (e : NodeEntry) : (s.setNode n e).port = s.port := rfl
@[simp] theorem clearing_setNode (s : State) (n : NodeNo) (e : NodeEntry) : (s.setNode n e).clearing = s.clearing := rfl
@[simp] theorem resetHeld_setNode (s : State) (n : NodeNo) (e : NodeEntry) : (s.setNode n e).resetHeld = s.resetHeld := rfl
@[simp] theorem pending_setNode (s : State) (n : NodeNo) (e : NodeEntry) : (s.setNode n e).pending = s.pending := rfl

/-! ## setRecord -/

@[simp] theorem directory_setRecord (s : State) (i : SlotNo) (r : Record) : (s.setRecord i r).directory = { s.directory with slots := s.directory.slots.set i.val { s.slot i with record := some r } } := rfl
@[simp] theorem nodes_setRecord (s : State) (i : SlotNo) (r : Record) : (s.setRecord i r).nodes = s.nodes := rfl
@[simp] theorem schedule_setRecord (s : State) (i : SlotNo) (r : Record) : (s.setRecord i r).schedule = s.schedule := rfl
@[simp] theorem lastFired_setRecord (s : State) (i : SlotNo) (r : Record) : (s.setRecord i r).lastFired = s.lastFired := rfl
@[simp] theorem cycle_setRecord (s : State) (i : SlotNo) (r : Record) : (s.setRecord i r).cycle = s.cycle := rfl
@[simp] theorem line_setRecord (s : State) (i : SlotNo) (r : Record) : (s.setRecord i r).line = s.line := rfl
@[simp] theorem attention_setRecord (s : State) (i : SlotNo) (r : Record) : (s.setRecord i r).attention = s.attention := rfl
@[simp] theorem take_setRecord (s : State) (i : SlotNo) (r : Record) : (s.setRecord i r).take = s.take := rfl
@[simp] theorem events_setRecord (s : State) (i : SlotNo) (r : Record) : (s.setRecord i r).events = s.events := rfl
@[simp] theorem mask_setRecord (s : State) (i : SlotNo) (r : Record) : (s.setRecord i r).mask = s.mask := rfl
@[simp] theorem stray_setRecord (s : State) (i : SlotNo) (r : Record) : (s.setRecord i r).stray = s.stray := rfl
@[simp] theorem command_setRecord (s : State) (i : SlotNo) (r : Record) : (s.setRecord i r).command = s.command := rfl
@[simp] theorem port_setRecord (s : State) (i : SlotNo) (r : Record) : (s.setRecord i r).port = s.port := rfl
@[simp] theorem clearing_setRecord (s : State) (i : SlotNo) (r : Record) : (s.setRecord i r).clearing = s.clearing := rfl
@[simp] theorem resetHeld_setRecord (s : State) (i : SlotNo) (r : Record) : (s.setRecord i r).resetHeld = s.resetHeld := rfl
@[simp] theorem pending_setRecord (s : State) (i : SlotNo) (r : Record) : (s.setRecord i r).pending = s.pending := rfl

/-! ## raise -/

@[simp] theorem directory_raise (s : State) (v : LatchedEvent) : (s.raise v).directory = s.directory := rfl
@[simp] theorem nodes_raise (s : State) (v : LatchedEvent) : (s.raise v).nodes = s.nodes := rfl
@[simp] theorem schedule_raise (s : State) (v : LatchedEvent) : (s.raise v).schedule = s.schedule := rfl
@[simp] theorem lastFired_raise (s : State) (v : LatchedEvent) : (s.raise v).lastFired = s.lastFired := rfl
@[simp] theorem cycle_raise (s : State) (v : LatchedEvent) : (s.raise v).cycle = s.cycle := rfl
@[simp] theorem line_raise (s : State) (v : LatchedEvent) : (s.raise v).line = s.line := rfl
@[simp] theorem attention_raise (s : State) (v : LatchedEvent) : (s.raise v).attention = s.attention := rfl
@[simp] theorem take_raise (s : State) (v : LatchedEvent) : (s.raise v).take = s.take := rfl
@[simp] theorem events_raise (s : State) (v : LatchedEvent) : (s.raise v).events = s.events.raise v := rfl
@[simp] theorem mask_raise (s : State) (v : LatchedEvent) : (s.raise v).mask = s.mask := rfl
@[simp] theorem stray_raise (s : State) (v : LatchedEvent) : (s.raise v).stray = s.stray := rfl
@[simp] theorem command_raise (s : State) (v : LatchedEvent) : (s.raise v).command = s.command := rfl
@[simp] theorem port_raise (s : State) (v : LatchedEvent) : (s.raise v).port = s.port := rfl
@[simp] theorem clearing_raise (s : State) (v : LatchedEvent) : (s.raise v).clearing = s.clearing := rfl
@[simp] theorem resetHeld_raise (s : State) (v : LatchedEvent) : (s.raise v).resetHeld = s.resetHeld := rfl
@[simp] theorem pending_raise (s : State) (v : LatchedEvent) : (s.raise v).pending = s.pending := rfl

/-! ## flag -/

@[simp] theorem directory_flag (s : State) (f : ErrorFlag) : (s.flag f).directory = s.directory := rfl
@[simp] theorem nodes_flag (s : State) (f : ErrorFlag) : (s.flag f).nodes = s.nodes := rfl
@[simp] theorem schedule_flag (s : State) (f : ErrorFlag) : (s.flag f).schedule = s.schedule := rfl
@[simp] theorem lastFired_flag (s : State) (f : ErrorFlag) : (s.flag f).lastFired = s.lastFired := rfl
@[simp] theorem cycle_flag (s : State) (f : ErrorFlag) : (s.flag f).cycle = s.cycle := rfl
@[simp] theorem line_flag (s : State) (f : ErrorFlag) : (s.flag f).line = s.line := rfl
@[simp] theorem attention_flag (s : State) (f : ErrorFlag) : (s.flag f).attention = s.attention := rfl
@[simp] theorem take_flag (s : State) (f : ErrorFlag) : (s.flag f).take = s.take := rfl
@[simp] theorem events_flag (s : State) (f : ErrorFlag) : (s.flag f).events = s.events := rfl
@[simp] theorem mask_flag (s : State) (f : ErrorFlag) : (s.flag f).mask = s.mask := rfl
@[simp] theorem stray_flag (s : State) (f : ErrorFlag) : (s.flag f).stray = s.stray := rfl
@[simp] theorem command_flag (s : State) (f : ErrorFlag) : (s.flag f).command = s.command := rfl
@[simp] theorem port_flag (s : State) (f : ErrorFlag) : (s.flag f).port = { s.port with errors := s.port.errors.set f } := rfl
@[simp] theorem clearing_flag (s : State) (f : ErrorFlag) : (s.flag f).clearing = s.clearing := rfl
@[simp] theorem resetHeld_flag (s : State) (f : ErrorFlag) : (s.flag f).resetHeld = s.resetHeld := rfl
@[simp] theorem pending_flag (s : State) (f : ErrorFlag) : (s.flag f).pending = s.pending := rfl

/-! ## setLine -/

@[simp] theorem directory_setLine (s : State) (l : LineController) : (s.setLine l).directory = s.directory := rfl
@[simp] theorem nodes_setLine (s : State) (l : LineController) : (s.setLine l).nodes = s.nodes := rfl
@[simp] theorem schedule_setLine (s : State) (l : LineController) : (s.setLine l).schedule = s.schedule := rfl
@[simp] theorem lastFired_setLine (s : State) (l : LineController) : (s.setLine l).lastFired = s.lastFired := rfl
@[simp] theorem cycle_setLine (s : State) (l : LineController) : (s.setLine l).cycle = s.cycle := rfl
@[simp] theorem line_setLine (s : State) (l : LineController) : (s.setLine l).line = l := rfl
@[simp] theorem attention_setLine (s : State) (l : LineController) : (s.setLine l).attention = s.attention := rfl
@[simp] theorem take_setLine (s : State) (l : LineController) : (s.setLine l).take = s.take := rfl
@[simp] theorem events_setLine (s : State) (l : LineController) : (s.setLine l).events = s.events := rfl
@[simp] theorem mask_setLine (s : State) (l : LineController) : (s.setLine l).mask = s.mask := rfl
@[simp] theorem stray_setLine (s : State) (l : LineController) : (s.setLine l).stray = s.stray := rfl
@[simp] theorem command_setLine (s : State) (l : LineController) : (s.setLine l).command = s.command := rfl
@[simp] theorem port_setLine (s : State) (l : LineController) : (s.setLine l).port = s.port := rfl
@[simp] theorem clearing_setLine (s : State) (l : LineController) : (s.setLine l).clearing = s.clearing := rfl
@[simp] theorem resetHeld_setLine (s : State) (l : LineController) : (s.setLine l).resetHeld = s.resetHeld := rfl
@[simp] theorem pending_setLine (s : State) (l : LineController) : (s.setLine l).pending = s.pending := rfl

/-! ## setCycle -/

@[simp] theorem directory_setCycle (s : State) (c : CycleUnit) : (s.setCycle c).directory = s.directory := rfl
@[simp] theorem nodes_setCycle (s : State) (c : CycleUnit) : (s.setCycle c).nodes = s.nodes := rfl
@[simp] theorem schedule_setCycle (s : State) (c : CycleUnit) : (s.setCycle c).schedule = s.schedule := rfl
@[simp] theorem lastFired_setCycle (s : State) (c : CycleUnit) : (s.setCycle c).lastFired = s.lastFired := rfl
@[simp] theorem cycle_setCycle (s : State) (c : CycleUnit) : (s.setCycle c).cycle = c := rfl
@[simp] theorem line_setCycle (s : State) (c : CycleUnit) : (s.setCycle c).line = s.line := rfl
@[simp] theorem attention_setCycle (s : State) (c : CycleUnit) : (s.setCycle c).attention = s.attention := rfl
@[simp] theorem take_setCycle (s : State) (c : CycleUnit) : (s.setCycle c).take = s.take := rfl
@[simp] theorem events_setCycle (s : State) (c : CycleUnit) : (s.setCycle c).events = s.events := rfl
@[simp] theorem mask_setCycle (s : State) (c : CycleUnit) : (s.setCycle c).mask = s.mask := rfl
@[simp] theorem stray_setCycle (s : State) (c : CycleUnit) : (s.setCycle c).stray = s.stray := rfl
@[simp] theorem command_setCycle (s : State) (c : CycleUnit) : (s.setCycle c).command = s.command := rfl
@[simp] theorem port_setCycle (s : State) (c : CycleUnit) : (s.setCycle c).port = s.port := rfl
@[simp] theorem clearing_setCycle (s : State) (c : CycleUnit) : (s.setCycle c).clearing = s.clearing := rfl
@[simp] theorem resetHeld_setCycle (s : State) (c : CycleUnit) : (s.setCycle c).resetHeld = s.resetHeld := rfl
@[simp] theorem pending_setCycle (s : State) (c : CycleUnit) : (s.setCycle c).pending = s.pending := rfl

/-! ## setCommand -/

@[simp] theorem directory_setCommand (s : State) (c : CommandUnit) : (s.setCommand c).directory = s.directory := rfl
@[simp] theorem nodes_setCommand (s : State) (c : CommandUnit) : (s.setCommand c).nodes = s.nodes := rfl
@[simp] theorem schedule_setCommand (s : State) (c : CommandUnit) : (s.setCommand c).schedule = s.schedule := rfl
@[simp] theorem lastFired_setCommand (s : State) (c : CommandUnit) : (s.setCommand c).lastFired = s.lastFired := rfl
@[simp] theorem cycle_setCommand (s : State) (c : CommandUnit) : (s.setCommand c).cycle = s.cycle := rfl
@[simp] theorem line_setCommand (s : State) (c : CommandUnit) : (s.setCommand c).line = s.line := rfl
@[simp] theorem attention_setCommand (s : State) (c : CommandUnit) : (s.setCommand c).attention = s.attention := rfl
@[simp] theorem take_setCommand (s : State) (c : CommandUnit) : (s.setCommand c).take = s.take := rfl
@[simp] theorem events_setCommand (s : State) (c : CommandUnit) : (s.setCommand c).events = s.events := rfl
@[simp] theorem mask_setCommand (s : State) (c : CommandUnit) : (s.setCommand c).mask = s.mask := rfl
@[simp] theorem stray_setCommand (s : State) (c : CommandUnit) : (s.setCommand c).stray = s.stray := rfl
@[simp] theorem command_setCommand (s : State) (c : CommandUnit) : (s.setCommand c).command = c := rfl
@[simp] theorem port_setCommand (s : State) (c : CommandUnit) : (s.setCommand c).port = s.port := rfl
@[simp] theorem clearing_setCommand (s : State) (c : CommandUnit) : (s.setCommand c).clearing = s.clearing := rfl
@[simp] theorem resetHeld_setCommand (s : State) (c : CommandUnit) : (s.setCommand c).resetHeld = s.resetHeld := rfl
@[simp] theorem pending_setCommand (s : State) (c : CommandUnit) : (s.setCommand c).pending = s.pending := rfl

/-! ## setPort -/

@[simp] theorem directory_setPort (s : State) (p : HostPort) : (s.setPort p).directory = s.directory := rfl
@[simp] theorem nodes_setPort (s : State) (p : HostPort) : (s.setPort p).nodes = s.nodes := rfl
@[simp] theorem schedule_setPort (s : State) (p : HostPort) : (s.setPort p).schedule = s.schedule := rfl
@[simp] theorem lastFired_setPort (s : State) (p : HostPort) : (s.setPort p).lastFired = s.lastFired := rfl
@[simp] theorem cycle_setPort (s : State) (p : HostPort) : (s.setPort p).cycle = s.cycle := rfl
@[simp] theorem line_setPort (s : State) (p : HostPort) : (s.setPort p).line = s.line := rfl
@[simp] theorem attention_setPort (s : State) (p : HostPort) : (s.setPort p).attention = s.attention := rfl
@[simp] theorem take_setPort (s : State) (p : HostPort) : (s.setPort p).take = s.take := rfl
@[simp] theorem events_setPort (s : State) (p : HostPort) : (s.setPort p).events = s.events := rfl
@[simp] theorem mask_setPort (s : State) (p : HostPort) : (s.setPort p).mask = s.mask := rfl
@[simp] theorem stray_setPort (s : State) (p : HostPort) : (s.setPort p).stray = s.stray := rfl
@[simp] theorem command_setPort (s : State) (p : HostPort) : (s.setPort p).command = s.command := rfl
@[simp] theorem port_setPort (s : State) (p : HostPort) : (s.setPort p).port = p := rfl
@[simp] theorem clearing_setPort (s : State) (p : HostPort) : (s.setPort p).clearing = s.clearing := rfl
@[simp] theorem resetHeld_setPort (s : State) (p : HostPort) : (s.setPort p).resetHeld = s.resetHeld := rfl
@[simp] theorem pending_setPort (s : State) (p : HostPort) : (s.setPort p).pending = s.pending := rfl

/-! ## setPhase -/

@[simp] theorem directory_setPhase (s : State) (p : PortPhase) : (s.setPhase p).directory = s.directory := rfl
@[simp] theorem nodes_setPhase (s : State) (p : PortPhase) : (s.setPhase p).nodes = s.nodes := rfl
@[simp] theorem schedule_setPhase (s : State) (p : PortPhase) : (s.setPhase p).schedule = s.schedule := rfl
@[simp] theorem lastFired_setPhase (s : State) (p : PortPhase) : (s.setPhase p).lastFired = s.lastFired := rfl
@[simp] theorem cycle_setPhase (s : State) (p : PortPhase) : (s.setPhase p).cycle = s.cycle := rfl
@[simp] theorem line_setPhase (s : State) (p : PortPhase) : (s.setPhase p).line = s.line := rfl
@[simp] theorem attention_setPhase (s : State) (p : PortPhase) : (s.setPhase p).attention = s.attention := rfl
@[simp] theorem take_setPhase (s : State) (p : PortPhase) : (s.setPhase p).take = s.take := rfl
@[simp] theorem events_setPhase (s : State) (p : PortPhase) : (s.setPhase p).events = s.events := rfl
@[simp] theorem mask_setPhase (s : State) (p : PortPhase) : (s.setPhase p).mask = s.mask := rfl
@[simp] theorem stray_setPhase (s : State) (p : PortPhase) : (s.setPhase p).stray = s.stray := rfl
@[simp] theorem command_setPhase (s : State) (p : PortPhase) : (s.setPhase p).command = s.command := rfl
@[simp] theorem port_setPhase (s : State) (p : PortPhase) : (s.setPhase p).port = { s.port with phase := p } := rfl
@[simp] theorem clearing_setPhase (s : State) (p : PortPhase) : (s.setPhase p).clearing = s.clearing := rfl
@[simp] theorem resetHeld_setPhase (s : State) (p : PortPhase) : (s.setPhase p).resetHeld = s.resetHeld := rfl
@[simp] theorem pending_setPhase (s : State) (p : PortPhase) : (s.setPhase p).pending = s.pending := rfl

/-! ## emit -/

@[simp] theorem directory_emit (s : State) (out : List Sdo) : (s.emit out).directory = s.directory := rfl
@[simp] theorem nodes_emit (s : State) (out : List Sdo) : (s.emit out).nodes = s.nodes := rfl
@[simp] theorem schedule_emit (s : State) (out : List Sdo) : (s.emit out).schedule = s.schedule := rfl
@[simp] theorem lastFired_emit (s : State) (out : List Sdo) : (s.emit out).lastFired = s.lastFired := rfl
@[simp] theorem cycle_emit (s : State) (out : List Sdo) : (s.emit out).cycle = s.cycle := rfl
@[simp] theorem line_emit (s : State) (out : List Sdo) : (s.emit out).line = s.line := rfl
@[simp] theorem attention_emit (s : State) (out : List Sdo) : (s.emit out).attention = s.attention := rfl
@[simp] theorem take_emit (s : State) (out : List Sdo) : (s.emit out).take = s.take := rfl
@[simp] theorem events_emit (s : State) (out : List Sdo) : (s.emit out).events = s.events := rfl
@[simp] theorem mask_emit (s : State) (out : List Sdo) : (s.emit out).mask = s.mask := rfl
@[simp] theorem stray_emit (s : State) (out : List Sdo) : (s.emit out).stray = s.stray := rfl
@[simp] theorem command_emit (s : State) (out : List Sdo) : (s.emit out).command = s.command := rfl
@[simp] theorem port_emit (s : State) (out : List Sdo) : (s.emit out).port = { s.port with sdo := s.port.sdo ++ out } := rfl
@[simp] theorem clearing_emit (s : State) (out : List Sdo) : (s.emit out).clearing = s.clearing := rfl
@[simp] theorem resetHeld_emit (s : State) (out : List Sdo) : (s.emit out).resetHeld = s.resetHeld := rfl
@[simp] theorem pending_emit (s : State) (out : List Sdo) : (s.emit out).pending = s.pending := rfl

/-! ## setSchedule -/

@[simp] theorem directory_setSchedule (s : State) (es : List ScheduleEntry) : (s.setSchedule es).directory = s.directory := rfl
@[simp] theorem nodes_setSchedule (s : State) (es : List ScheduleEntry) : (s.setSchedule es).nodes = s.nodes := rfl
@[simp] theorem schedule_setSchedule (s : State) (es : List ScheduleEntry) : (s.setSchedule es).schedule = es := rfl
@[simp] theorem lastFired_setSchedule (s : State) (es : List ScheduleEntry) : (s.setSchedule es).lastFired = s.lastFired := rfl
@[simp] theorem cycle_setSchedule (s : State) (es : List ScheduleEntry) : (s.setSchedule es).cycle = s.cycle := rfl
@[simp] theorem line_setSchedule (s : State) (es : List ScheduleEntry) : (s.setSchedule es).line = s.line := rfl
@[simp] theorem attention_setSchedule (s : State) (es : List ScheduleEntry) : (s.setSchedule es).attention = s.attention := rfl
@[simp] theorem take_setSchedule (s : State) (es : List ScheduleEntry) : (s.setSchedule es).take = s.take := rfl
@[simp] theorem events_setSchedule (s : State) (es : List ScheduleEntry) : (s.setSchedule es).events = s.events := rfl
@[simp] theorem mask_setSchedule (s : State) (es : List ScheduleEntry) : (s.setSchedule es).mask = s.mask := rfl
@[simp] theorem stray_setSchedule (s : State) (es : List ScheduleEntry) : (s.setSchedule es).stray = s.stray := rfl
@[simp] theorem command_setSchedule (s : State) (es : List ScheduleEntry) : (s.setSchedule es).command = s.command := rfl
@[simp] theorem port_setSchedule (s : State) (es : List ScheduleEntry) : (s.setSchedule es).port = s.port := rfl
@[simp] theorem clearing_setSchedule (s : State) (es : List ScheduleEntry) : (s.setSchedule es).clearing = s.clearing := rfl
@[simp] theorem resetHeld_setSchedule (s : State) (es : List ScheduleEntry) : (s.setSchedule es).resetHeld = s.resetHeld := rfl
@[simp] theorem pending_setSchedule (s : State) (es : List ScheduleEntry) : (s.setSchedule es).pending = s.pending := rfl

/-! ## setDamagedLatch -/

@[simp] theorem directory_setDamagedLatch (s : State) (d : Option DamagedLatch) : (s.setDamagedLatch d).directory = s.directory := rfl
@[simp] theorem nodes_setDamagedLatch (s : State) (d : Option DamagedLatch) : (s.setDamagedLatch d).nodes = s.nodes := rfl
@[simp] theorem schedule_setDamagedLatch (s : State) (d : Option DamagedLatch) : (s.setDamagedLatch d).schedule = s.schedule := rfl
@[simp] theorem lastFired_setDamagedLatch (s : State) (d : Option DamagedLatch) : (s.setDamagedLatch d).lastFired = s.lastFired := rfl
@[simp] theorem cycle_setDamagedLatch (s : State) (d : Option DamagedLatch) : (s.setDamagedLatch d).cycle = s.cycle := rfl
@[simp] theorem line_setDamagedLatch (s : State) (d : Option DamagedLatch) : (s.setDamagedLatch d).line = { s.line with damagedLatch := d } := rfl
@[simp] theorem attention_setDamagedLatch (s : State) (d : Option DamagedLatch) : (s.setDamagedLatch d).attention = s.attention := rfl
@[simp] theorem take_setDamagedLatch (s : State) (d : Option DamagedLatch) : (s.setDamagedLatch d).take = s.take := rfl
@[simp] theorem events_setDamagedLatch (s : State) (d : Option DamagedLatch) : (s.setDamagedLatch d).events = s.events := rfl
@[simp] theorem mask_setDamagedLatch (s : State) (d : Option DamagedLatch) : (s.setDamagedLatch d).mask = s.mask := rfl
@[simp] theorem stray_setDamagedLatch (s : State) (d : Option DamagedLatch) : (s.setDamagedLatch d).stray = s.stray := rfl
@[simp] theorem command_setDamagedLatch (s : State) (d : Option DamagedLatch) : (s.setDamagedLatch d).command = s.command := rfl
@[simp] theorem port_setDamagedLatch (s : State) (d : Option DamagedLatch) : (s.setDamagedLatch d).port = s.port := rfl
@[simp] theorem clearing_setDamagedLatch (s : State) (d : Option DamagedLatch) : (s.setDamagedLatch d).clearing = s.clearing := rfl
@[simp] theorem resetHeld_setDamagedLatch (s : State) (d : Option DamagedLatch) : (s.setDamagedLatch d).resetHeld = s.resetHeld := rfl
@[simp] theorem pending_setDamagedLatch (s : State) (d : Option DamagedLatch) : (s.setDamagedLatch d).pending = s.pending := rfl

/-! ## writeImage -/

@[simp] theorem directory_writeImage (s : State) (v : Vector Byte 16) : (s.writeImage v).directory = s.directory := rfl
@[simp] theorem nodes_writeImage (s : State) (v : Vector Byte 16) : (s.writeImage v).nodes = s.nodes := rfl
@[simp] theorem schedule_writeImage (s : State) (v : Vector Byte 16) : (s.writeImage v).schedule = s.schedule := rfl
@[simp] theorem lastFired_writeImage (s : State) (v : Vector Byte 16) : (s.writeImage v).lastFired = s.lastFired := rfl
@[simp] theorem cycle_writeImage (s : State) (v : Vector Byte 16) : (s.writeImage v).cycle = s.cycle := rfl
@[simp] theorem line_writeImage (s : State) (v : Vector Byte 16) : (s.writeImage v).line = s.line := rfl
@[simp] theorem attention_writeImage (s : State) (v : Vector Byte 16) : (s.writeImage v).attention = s.attention := rfl
@[simp] theorem take_writeImage (s : State) (v : Vector Byte 16) : (s.writeImage v).take = s.take := rfl
@[simp] theorem events_writeImage (s : State) (v : Vector Byte 16) : (s.writeImage v).events = s.events := rfl
@[simp] theorem mask_writeImage (s : State) (v : Vector Byte 16) : (s.writeImage v).mask = s.mask := rfl
@[simp] theorem stray_writeImage (s : State) (v : Vector Byte 16) : (s.writeImage v).stray = s.stray := rfl
@[simp] theorem command_writeImage (s : State) (v : Vector Byte 16) : (s.writeImage v).command = { s.command with image := v } := rfl
@[simp] theorem port_writeImage (s : State) (v : Vector Byte 16) : (s.writeImage v).port = s.port := rfl
@[simp] theorem clearing_writeImage (s : State) (v : Vector Byte 16) : (s.writeImage v).clearing = s.clearing := rfl
@[simp] theorem resetHeld_writeImage (s : State) (v : Vector Byte 16) : (s.writeImage v).resetHeld = s.resetHeld := rfl
@[simp] theorem pending_writeImage (s : State) (v : Vector Byte 16) : (s.writeImage v).pending = s.pending := rfl

/-! ## Slots and node entries -/

@[simp] theorem slot_setSlot_self (s : State) (i : SlotNo) (x : Slot) : (s.setSlot i x).slot i = x := by
  simp [State.slot]

theorem slot_setSlot_ne (s : State) {i j : SlotNo} (x : Slot) (h : i ≠ j) : (s.setSlot i x).slot j = s.slot j := by
  have h' : i.val ≠ j.val := fun e => h (Fin.ext e)
  simp [State.slot, h']

theorem slot_setSlot (s : State) (i j : SlotNo) (x : Slot) :
    (s.setSlot i x).slot j = if i = j then x else s.slot j := by
  by_cases h : i = j
  · subst h; simp
  · simp [h, slot_setSlot_ne s x h]

@[simp] theorem node_setNode_self (s : State) (n : NodeNo) (e : NodeEntry) : (s.setNode n e).node n = e := by
  simp [State.node]

theorem node_setNode_ne (s : State) {n m : NodeNo} (e : NodeEntry) (h : n ≠ m) : (s.setNode n e).node m = s.node m := by
  have h' : n.val ≠ m.val := fun x => h (Fin.ext x)
  simp [State.node, h']

theorem node_setNode (s : State) (n m : NodeNo) (e : NodeEntry) :
    (s.setNode n e).node m = if n = m then e else s.node m := by
  by_cases h : n = m
  · subst h; simp
  · simp [h, node_setNode_ne s e h]

theorem slot_setRecord (s : State) (i j : SlotNo) (r : Record) :
    (s.setRecord i r).slot j = if i = j then { s.slot i with record := some r } else s.slot j :=
  slot_setSlot s i j _

@[simp] theorem slot_setNode (s : State) (n : NodeNo) (e : NodeEntry) (j : SlotNo) : (s.setNode n e).slot j = s.slot j := rfl
@[simp] theorem slot_raise (s : State) (v : LatchedEvent) (j : SlotNo) : (s.raise v).slot j = s.slot j := rfl
@[simp] theorem slot_flag (s : State) (f : ErrorFlag) (j : SlotNo) : (s.flag f).slot j = s.slot j := rfl
@[simp] theorem slot_setLine (s : State) (l : LineController) (j : SlotNo) : (s.setLine l).slot j = s.slot j := rfl
@[simp] theorem slot_setCycle (s : State) (c : CycleUnit) (j : SlotNo) : (s.setCycle c).slot j = s.slot j := rfl
@[simp] theorem slot_setCommand (s : State) (c : CommandUnit) (j : SlotNo) : (s.setCommand c).slot j = s.slot j := rfl
@[simp] theorem slot_setPort (s : State) (p : HostPort) (j : SlotNo) : (s.setPort p).slot j = s.slot j := rfl
@[simp] theorem slot_setPhase (s : State) (p : PortPhase) (j : SlotNo) : (s.setPhase p).slot j = s.slot j := rfl
@[simp] theorem slot_emit (s : State) (out : List Sdo) (j : SlotNo) : (s.emit out).slot j = s.slot j := rfl
@[simp] theorem slot_setSchedule (s : State) (es : List ScheduleEntry) (j : SlotNo) : (s.setSchedule es).slot j = s.slot j := rfl
@[simp] theorem slot_setDamagedLatch (s : State) (d : Option DamagedLatch) (j : SlotNo) : (s.setDamagedLatch d).slot j = s.slot j := rfl
@[simp] theorem slot_writeImage (s : State) (v : Vector Byte 16) (j : SlotNo) : (s.writeImage v).slot j = s.slot j := rfl

@[simp] theorem node_setSlot (s : State) (i : SlotNo) (x : Slot) (m : NodeNo) : (s.setSlot i x).node m = s.node m := rfl
@[simp] theorem node_setRecord (s : State) (i : SlotNo) (r : Record) (m : NodeNo) : (s.setRecord i r).node m = s.node m := rfl
@[simp] theorem node_raise (s : State) (v : LatchedEvent) (m : NodeNo) : (s.raise v).node m = s.node m := rfl
@[simp] theorem node_flag (s : State) (f : ErrorFlag) (m : NodeNo) : (s.flag f).node m = s.node m := rfl
@[simp] theorem node_setLine (s : State) (l : LineController) (m : NodeNo) : (s.setLine l).node m = s.node m := rfl
@[simp] theorem node_setCycle (s : State) (c : CycleUnit) (m : NodeNo) : (s.setCycle c).node m = s.node m := rfl
@[simp] theorem node_setCommand (s : State) (c : CommandUnit) (m : NodeNo) : (s.setCommand c).node m = s.node m := rfl
@[simp] theorem node_setPort (s : State) (p : HostPort) (m : NodeNo) : (s.setPort p).node m = s.node m := rfl
@[simp] theorem node_setPhase (s : State) (p : PortPhase) (m : NodeNo) : (s.setPhase p).node m = s.node m := rfl
@[simp] theorem node_emit (s : State) (out : List Sdo) (m : NodeNo) : (s.emit out).node m = s.node m := rfl
@[simp] theorem node_setSchedule (s : State) (es : List ScheduleEntry) (m : NodeNo) : (s.setSchedule es).node m = s.node m := rfl
@[simp] theorem node_setDamagedLatch (s : State) (d : Option DamagedLatch) (m : NodeNo) : (s.setDamagedLatch d).node m = s.node m := rfl
@[simp] theorem node_writeImage (s : State) (v : Vector Byte 16) (m : NodeNo) : (s.writeImage v).node m = s.node m := rfl

end Sys2Proof.Laws
end

