-- ==== Sys2Proof/Laws/Directory.lean ====
section
/-! SUPPORT. What the operations of the directory and the node table do: lookups, the lowest empty slot, removal, release, the reasons raised. -/

namespace Sys2Proof.Laws

open Sys2Proof.Machine

/-! ## Numbers -/

theorem nodeNo?_eq_some {b : Byte} {n : NodeNo} : nodeNo? b = some n ↔ b.toNat = nodeAddress n := by
  unfold nodeNo? nodeAddress
  constructor
  · intro h
    split at h
    · rename_i hb
      have := Option.some.inj h
      rw [← this]
      simp only
      omega
    · cases h
  · intro h
    have hn := n.isLt
    rw [dif_pos (by omega)]
    congr 1
    apply Fin.ext
    simp only
    omega

theorem nodeNo?_eq_none {b : Byte} : nodeNo? b = none ↔ ¬ (1 ≤ b.toNat ∧ b.toNat ≤ 239) := by
  unfold nodeNo?
  split <;> simp_all

theorem addressByte_toNat (n : NodeNo) : (addressByte n).toNat = nodeAddress n := by
  have := n.isLt
  simp only [addressByte, nodeAddress, BitVec.toNat_ofNat]
  omega

@[simp] theorem nodeNo?_addressByte (n : NodeNo) : nodeNo? (addressByte n) = some n :=
  nodeNo?_eq_some.2 (addressByte_toNat n)

theorem slotNo?_eq_some {w : Word16} {i : SlotNo} : slotNo? w = some i ↔ w.toNat = i.val := by
  unfold slotNo?
  constructor
  · intro h
    split at h
    · have := Option.some.inj h
      rw [← this]
    · cases h
  · intro h
    have := i.isLt
    rw [dif_pos (by omega)]
    congr 1
    exact Fin.ext h

theorem slotNo?_eq_none {w : Word16} : slotNo? w = none ↔ 384 ≤ w.toNat := by
  unfold slotNo?
  split <;> simp_all

theorem channel?_eq_some {b : Byte} {c : BitVec 4} : channel? b = some c ↔ b.toNat = c.toNat := by
  unfold channel?
  constructor
  · intro h
    split at h
    · rw [← Option.some.inj h]
      simp
      omega
    · cases h
  · intro h
    have := c.isLt
    rw [if_pos (by omega)]
    congr 1
    apply BitVec.eq_of_toNat_eq
    simp
    omega

theorem channel?_eq_none {b : Byte} : channel? b = none ↔ 16 ≤ b.toNat := by
  unfold channel?
  split <;> simp_all

/-! ## The key in the command argument -/

theorem argKey_eq_some {s : State} {k : Key} : s.command.argKey = some k ↔ s.ArgKey k := by
  unfold CommandUnit.argKey State.ArgKey
  constructor
  · intro h
    split at h
    · rename_i n ch hn hc
      cases h
      exact ⟨nodeNo?_eq_some.1 hn, channel?_eq_some.1 hc⟩
    · cases h
  · intro h
    rw [nodeNo?_eq_some.2 h.1, channel?_eq_some.2 h.2]

theorem argKey_eq_none {s : State} : s.command.argKey = none ↔ ¬ s.ArgKeyInRange := by
  unfold CommandUnit.argKey State.ArgKeyInRange
  cases hn : nodeNo? (s.command.argByte 0) with
  | none =>
    have := nodeNo?_eq_none.1 hn
    simp
    omega
  | some n =>
    have h1 := nodeNo?_eq_some.1 hn
    have hlt := n.isLt
    unfold nodeAddress at h1
    cases hc : channel? (s.command.argByte 1) with
    | none =>
      have := channel?_eq_none.1 hc
      simp
      omega
    | some c =>
      have := channel?_eq_some.1 hc
      have := c.isLt
      simp
      omega

/-! ## Lookup (R3) -/

theorem lookupKey_some {s : State} (h : s.IndexLaw) {k : Key} {i : SlotNo} {r : Record} :
    s.lookupKey k = some (i, r) ↔ (s.slot i).record = some r ∧ r.key = k := by
  obtain ⟨hin, hout, hnd⟩ := h
  constructor
  · intro hl
    unfold State.lookupKey at hl
    split at hl
    · cases hl
    · rename_i e he
      split at hl
      · cases hl
      · rename_i r' hr'
        cases hl
        have hmem := List.mem_of_find?_eq_some he
        have hkey := List.find?_some he
        have := hout e hmem
        rw [hr'] at this
        exact ⟨hr', this.trans (by simpa using hkey)⟩
  · rintro ⟨hr, rfl⟩
    have hmem := (hin i r hr).1
    unfold State.lookupKey
    cases hf : s.directory.index.find? (·.key == r.key) with
    | none =>
      have := List.find?_eq_none.1 hf _ hmem
      simp at this
    | some e =>
      have hme := List.mem_of_find?_eq_some hf
      have hke : e.key = r.key := by simpa using List.find?_some hf
      have heq : e = ⟨r.key, i⟩ := List.inj_on_of_nodup_map hnd hme hmem hke
      subst heq
      simp [hr]

theorem lookupKey_none {s : State} (h : s.IndexLaw) {k : Key} : s.lookupKey k = none ↔ s.KeyAbsent k := by
  constructor
  · intro hl i r hr hk
    have := (lookupKey_some h (k := k)).2 ⟨hr, hk⟩
    rw [hl] at this
    cases this
  · intro ha
    cases hl : s.lookupKey k with
    | none => rfl
    | some p =>
      obtain ⟨i, r⟩ := p
      have := (lookupKey_some h).1 hl
      exact absurd this.2 (ha i r this.1)

/-! ## The lowest empty slot (R13) -/

theorem lowestEmpty_some {s : State} {i : SlotNo} :
    s.lowestEmpty = some i ↔ (s.slot i).record = none ∧ ∀ j : SlotNo, j < i → (s.slot j).record ≠ none := by
  unfold State.lowestEmpty
  rw [List.find?_eq_some_iff_getElem]
  constructor
  · rintro ⟨h1, k, hk, rfl, h3⟩
    refine ⟨by simpa using h1, fun j hj => ?_⟩
    have hj' : j.val < k := by
      have := Fin.lt_def.1 hj
      simpa using this
    have := h3 j.val hj'
    simpa [Option.isSome_iff_ne_none] using this
  · rintro ⟨h1, h2⟩
    refine ⟨by simpa using h1, i.val, by simp, by simp, fun j hj => ?_⟩
    have := h2 ⟨j, by omega⟩ (Fin.lt_def.2 hj)
    simpa [Option.isSome_iff_ne_none] using this

theorem lowestEmpty_none {s : State} : s.lowestEmpty = none ↔ ∀ j : SlotNo, (s.slot j).record ≠ none := by
  unfold State.lowestEmpty
  rw [List.find?_eq_none]
  constructor
  · intro h j
    simpa using h j (List.mem_finRange j)
  · intro h j _
    simpa using h j

/-! ## Removal and release (R18, R50) -/

theorem removeRecord_eq {s : State} {i : SlotNo} {r : Record} (h : (s.slot i).record = some r) :
    s.removeRecord i = s.afterRemoval i r := by
  unfold State.removeRecord
  rw [h]
  rfl

theorem removeRecord_empty {s : State} {i : SlotNo} (h : (s.slot i).record = none) : s.removeRecord i = s := by
  unfold State.removeRecord
  rw [h]

theorem freeNode_eq (s : State) (n : NodeNo) : s.freeNode n = s.afterRelease n := rfl

/-! ## Reasons raised (R120, R122) -/

theorem union_none_record (r : RecordReasons) : r.union .none = r := by
  simp [RecordReasons.union, RecordReasons.none]

theorem union_none_node (r : NodeReasons) : r.union .none = r := by
  simp [NodeReasons.union, NodeReasons.none]

theorem raiseNode_empty (s : State) (n : NodeNo) {r : NodeReasons} (h : r.isEmpty = true) : s.raiseNode n r = s := by
  simp [State.raiseNode, h]

theorem raiseNode_eq (s : State) (n : NodeNo) {r : NodeReasons} (h : r.isEmpty = false) :
    s.raiseNode n r =
      { s with
        nodes := s.nodes.set n.val { s.node n with reasons := (s.node n).reasons.union r }
        attention := if (s.node n).reasons.isEmpty then s.attention ++ [.node n] else s.attention
        take := s.take.map (·.noteNode n r) } := by
  simp [State.raiseNode, h, State.setNode, joinAttention]

theorem raiseRecord_empty (s : State) (i : SlotNo) {r : RecordReasons} (h : r.isEmpty = true) : s.raiseRecord i r = s := by
  unfold State.raiseRecord
  split <;> simp [h]

theorem raiseRecord_eq {s : State} {i : SlotNo} {x : Record} {r : RecordReasons} (hx : (s.slot i).record = some x)
    (h : r.isEmpty = false) :
    s.raiseRecord i r =
      { s with
        directory := { s.directory with
          slots := s.directory.slots.set i.val { s.slot i with record := some { x with reasons := x.reasons.union r } } }
        attention := if x.reasons.isEmpty then s.attention ++ [.record i] else s.attention
        take := s.take.map (·.noteRecord i r) } := by
  simp [State.raiseRecord, hx, h, State.setRecord, State.setSlot, joinAttention]

end Sys2Proof.Laws
end

