-- ==== Sys2Proof/Laws/Place.lean ====
section
/-! SUPPORT. A write of a host field acts alike wherever the host serial port stands in its frame: every owner commutes with a change of the port's place. -/

namespace Sys2Proof.Laws

open Sys2Proof.Machine

/-! ## Writes act alike wherever the port stands -/

/-- The state with the port at another place of a frame. -/
def stand (s : State) (ph : PortPhase) (sd : List Sdo) (fc : Bool) : State :=
  { s with port := { s.port with phase := ph, sdo := sd, frameCrc := fc } }

variable (s : State) (ph : PortPhase) (sd : List Sdo) (fc : Bool)

theorem stand_ite (c : Prop) [Decidable c] (a b : State) :
    stand (if c then a else b) ph sd fc = if c then stand a ph sd fc else stand b ph sd fc := by split <;> rfl

theorem cmdLookup_stand : (stand s ph sd fc).cmdLookup = stand s.cmdLookup ph sd fc := by
  unfold State.cmdLookup
  change (match s.command.argKey with
    | none => _
    | some k => match s.lookupKey k with | none => _ | some (i, r) => _) = _
  cases s.command.argKey with
  | none => rfl
  | some k =>
    dsimp only
    cases s.lookupKey k <;> rfl

theorem cmdReadSlot_stand : (stand s ph sd fc).cmdReadSlot = stand s.cmdReadSlot ph sd fc := by
  unfold State.cmdReadSlot
  change (match slotNo? s.command.argWord with
    | none => _
    | some i => match (s.slot i).record with | some r => _ | none => _) = _
  cases slotNo? s.command.argWord with
  | none => rfl
  | some i =>
    dsimp only
    cases (s.slot i).record <;> rfl

theorem insertRecord_stand (a) : (stand s ph sd fc).insertRecord a = stand (s.insertRecord a) ph sd fc := by
  unfold State.insertRecord
  change (match s.lookupKey a.key with
    | some (i, r) => _
    | none => match s.lowestEmpty with | none => _ | some i => _) = _
  cases s.lookupKey a.key with
  | some x => rfl
  | none =>
    dsimp only
    cases s.lowestEmpty <;> rfl

theorem cmdInsert_stand : (stand s ph sd fc).cmdInsert = stand s.cmdInsert ph sd fc := by
  unfold State.cmdInsert
  change (match s.command.insertArguments with
    | none => _
    | some a => match (s.node a.key.node).state with
      | .free => _ | .retiring => _ | .offered => _ | .assigned => _ | .bound => _ | .silent => _) = _
  cases s.command.insertArguments with
  | none => rfl
  | some a =>
    dsimp only
    cases (s.node a.key.node).state <;> first | rfl | exact insertRecord_stand s ph sd fc a

theorem amendSlot_stand (i a) : (stand s ph sd fc).amendSlot i a = stand (s.amendSlot i a) ph sd fc := by
  unfold State.amendSlot
  change (match (s.slot i).record with
    | none => _
    | some r => if r.generation ≠ s.command.argByte 2 then _ else _) = _
  cases (s.slot i).record with
  | none => rfl
  | some r =>
    dsimp only
    rw [stand_ite]
    rfl

theorem cmdAmend_stand : (stand s ph sd fc).cmdAmend = stand s.cmdAmend ph sd fc := by
  unfold State.cmdAmend
  change (match slotNo? s.command.argWord, s.command.amendArguments with
    | some i, some a => (stand s ph sd fc).amendSlot i a
    | _, _ => (stand s ph sd fc).badArgument) = _
  cases slotNo? s.command.argWord <;> cases s.command.amendArguments <;>
    first | rfl | exact amendSlot_stand s ph sd fc _ _

theorem removeRecord_stand (i) : (stand s ph sd fc).removeRecord i = stand (s.removeRecord i) ph sd fc := by
  unfold State.removeRecord
  change (match (s.slot i).record with | none => _ | some r => _) = _
  cases (s.slot i).record <;> rfl

theorem retireRecord_stand (i n) : (stand s ph sd fc).retireRecord i n = stand (s.retireRecord i n) ph sd fc := by
  unfold State.retireRecord
  rw [removeRecord_stand, stand_ite]
  rfl

theorem cmdRetire_stand : (stand s ph sd fc).cmdRetire = stand s.cmdRetire ph sd fc := by
  unfold State.cmdRetire
  simp only [retireRecord_stand]
  change (match slotNo? s.command.argWord with
    | none => _
    | some i => match (s.slot i).record with
      | none => _
      | some r => if r.generation ≠ s.command.argByte 2 then _ else _) = _
  cases slotNo? s.command.argWord with
  | none => rfl
  | some i =>
    dsimp only
    cases (s.slot i).record with
    | none => rfl
    | some r =>
      dsimp only
      rw [stand_ite]
      rfl

theorem cmdFind_stand : (stand s ph sd fc).cmdFind = stand s.cmdFind ph sd fc := by
  unfold State.cmdFind
  change (match slotNo? s.command.argWord with
    | none => _
    | some i => if s.command.window.criteria.valid then _ else _) = _
  cases slotNo? s.command.argWord with
  | none => rfl
  | some i =>
    dsimp only
    rw [stand_ite]
    rfl

theorem cmdReadNode_stand : (stand s ph sd fc).cmdReadNode = stand s.cmdReadNode ph sd fc := by
  unfold State.cmdReadNode
  change (match nodeNo? (s.command.argByte 0) with | none => _ | some n => _) = _
  cases nodeNo? (s.command.argByte 0) <;> rfl

theorem cmdOffer_stand : (stand s ph sd fc).cmdOffer = stand s.cmdOffer ph sd fc := by
  unfold State.cmdOffer
  change (match s.offerTarget with
    | none => _
    | some n => if (s.node n).state ≠ NodeState.free then _ else if !validIdentity s.command.window.identity then _ else
      match s.identityHolder s.command.window.identity with | some m => _ | none => if s.command.window.first.toNat ≤ 4095 then _ else _) = _
  cases s.offerTarget with
  | none => rfl
  | some n =>
    dsimp only
    rw [stand_ite, stand_ite]
    cases s.identityHolder s.command.window.identity with
    | some m => rfl
    | none =>
      dsimp only
      rw [stand_ite]
      rfl

theorem cmdRetireNode_stand : (stand s ph sd fc).cmdRetireNode = stand s.cmdRetireNode ph sd fc := by
  unfold State.cmdRetireNode
  change (match nodeNo? (s.command.argByte 0) with
    | none => _
    | some n => if (s.node n).state = NodeState.free then _ else if (s.node n).recordCount = 0 then _ else _) = _
  cases nodeNo? (s.command.argByte 0) with
  | none => rfl
  | some n =>
    dsimp only
    rw [stand_ite, stand_ite]
    rfl

theorem cmdLoad_stand : (stand s ph sd fc).cmdLoad = stand s.cmdLoad ph sd fc := by
  unfold State.cmdLoad
  rw [stand_ite]
  rfl

theorem cmdSchedule_stand : (stand s ph sd fc).cmdSchedule = stand s.cmdSchedule ph sd fc := by
  unfold State.cmdSchedule
  dsimp only
  rw [stand_ite, stand_ite]
  change (if (!ahead s.command.argWord s.cycle.counter) = true then _ else if s.command.argByte 2 = 0 then _ else
    match s.schedulePlace s.command.argWord with | some p => _ | none => if s.schedule.length < Config.scheduleDepth then _ else _) = _
  cases s.schedulePlace s.command.argWord with
  | some p => rfl
  | none =>
    dsimp only
    rw [stand_ite ph sd fc (s.schedule.length < Config.scheduleDepth)]
    rfl

theorem cmdUnschedule_stand : (stand s ph sd fc).cmdUnschedule = stand s.cmdUnschedule ph sd fc := by
  unfold State.cmdUnschedule
  change (match s.schedulePlace s.command.argWord with | none => _ | some p => _) = _
  cases s.schedulePlace s.command.argWord <;> rfl

theorem abort_stand : (stand s ph sd fc).abort = stand s.abort ph sd fc := by
  unfold State.abort
  change (match s.command.state with | .idle => _ | .finding v => _ | .cascading n r => _) = _
  cases s.command.state <;> rfl

theorem takeCommand_stand {body : State → State} (h : ∀ s : State, body (stand s ph sd fc) = stand (body s) ph sd fc) (code : Byte) :
    (stand s ph sd fc).takeCommand code body = stand (s.takeCommand code body) ph sd fc := by
  unfold State.takeCommand
  rw [stand_ite, ← h]
  rfl

theorem writeCommandCode_stand (code : Byte) : (stand s ph sd fc).writeCommandCode code = stand (s.writeCommandCode code) ph sd fc := by
  unfold State.writeCommandCode
  simp only [stand_ite, takeCommand_stand s ph sd fc (fun t => cmdLookup_stand t ph sd fc),
    takeCommand_stand s ph sd fc (fun t => cmdReadSlot_stand t ph sd fc),
    takeCommand_stand s ph sd fc (fun t => cmdInsert_stand t ph sd fc),
    takeCommand_stand s ph sd fc (fun t => cmdAmend_stand t ph sd fc),
    takeCommand_stand s ph sd fc (fun t => cmdRetire_stand t ph sd fc),
    takeCommand_stand s ph sd fc (fun t => cmdFind_stand t ph sd fc),
    takeCommand_stand s ph sd fc (fun t => cmdReadNode_stand t ph sd fc),
    takeCommand_stand s ph sd fc (fun t => cmdOffer_stand t ph sd fc),
    takeCommand_stand s ph sd fc (fun t => cmdRetireNode_stand t ph sd fc),
    takeCommand_stand s ph sd fc (fun t => cmdLoad_stand t ph sd fc),
    takeCommand_stand s ph sd fc (fun t => cmdSchedule_stand t ph sd fc),
    takeCommand_stand s ph sd fc (fun t => cmdUnschedule_stand t ph sd fc),
    takeCommand_stand s ph sd fc (body := State.unknownCommand) (fun t => rfl), abort_stand]

theorem cancelBeacon_stand : (stand s ph sd fc).cancelBeacon = stand s.cancelBeacon ph sd fc := by
  unfold State.cancelBeacon
  change (match s.line.state with | .sending .beacon _ _ _ => _ | .gap .beacon _ _ => _ | _ => _) = _
  cases s.line.state with
  | gap c _ _ => cases c <;> rfl
  | sending c _ _ _ => cases c <;> rfl
  | _ => rfl

theorem startCycle_stand (m) : (stand s ph sd fc).startCycle m = stand (s.startCycle m) ph sd fc := by
  cases m <;> rfl

theorem stopCycle_stand : (stand s ph sd fc).stopCycle = stand s.stopCycle ph sd fc := by
  unfold State.stopCycle
  rw [← cancelBeacon_stand]
  rfl

theorem writeCycleControl_stand (v) : (stand s ph sd fc).writeCycleControl v = stand (s.writeCycleControl v) ph sd fc := by
  unfold State.writeCycleControl
  simp only [stand_ite, stopCycle_stand, startCycle_stand]
  rfl

theorem writeGuarded_stand (c) : (stand s ph sd fc).writeGuarded c = stand (s.writeGuarded c) ph sd fc := by
  unfold State.writeGuarded
  rw [stand_ite]
  rfl

/-- A write acts alike wherever the port stands in its frame. -/
theorem applyField_stand (f : Field) (bytes : List Byte) :
    (stand s ph sd fc).applyField f bytes = stand (s.applyField f bytes) ph sd fc := by
  cases f <;> first
    | rfl
    | exact writeCommandCode_stand s ph sd fc _
    | exact writeCycleControl_stand s ph sd fc _
    | exact writeGuarded_stand s ph sd fc _
    | (simp only [State.applyField, State.writeCyclePeriod, State.writeLineRate, State.writeAnswerGap,
        State.writeAnswerRange, stand_ite]; rfl)

theorem writeCrcEnablePair_stand (v) : (stand s ph sd fc).writeCrcEnablePair v = stand (s.writeCrcEnablePair v) ph sd fc := by
  unfold State.writeCrcEnablePair
  rw [stand_ite]
  rfl

end Sys2Proof.Laws
end

