-- ==== Sys2Proof/Laws/Port.lean ====
section
/-! SUPPORT. What the host serial port does byte by byte: what follows a field (afterField_eq), the addresses a field takes (advanceBy_past), and a field that is written whole (write_field). -/

namespace Sys2Proof.Laws

open Sys2Proof.Machine

variable (s : State) (ph : PortPhase) (sd : List Sdo) (fc : Bool)

/-! ## Behind a field -/

/-- R148, R150, R154: what follows a field moves the port as `portBehind` says. -/
theorem afterField_eq (s : State) (a : Access) :
    s.afterField a = { s with port := s.portBehind a false } := by
  unfold State.afterField State.portBehind State.closeAccess
  cases hs : s.port.softReset with
  | true => rfl
  | false =>
    cases hm : a.mode with
    | singleField =>
      cases ht : a.taken <;> cases hk : a.keepLoop <;> cases hw : a.loopWritten <;> simp <;> rfl
    | streaming =>
      by_cases hp : a.writesPair = true
      · have : a.atPair = true := hp
        simp [hp, this]; rfl
      · have : ¬ a.atPair = true := hp
        simp [hp, this]; rfl

/-- R147: the end of the term of the loop length, where the access ends with CSN high. -/
theorem closeAccess_idle (s : State) (a : Access) :
    (s.closeAccess a).setPhase .idle =
      { s with port := { s.port with
        phase := .idle
        loopLength := if a.taken = true ∧ a.keepLoop = false ∧ a.loopWritten = false then 0 else s.port.loopLength } } := by
  unfold State.closeAccess
  cases a.taken <;> cases a.keepLoop <;> cases a.loopWritten <;> simp <;> rfl

/-! ## The bytes of a field -/

/-- The access with another transfer. -/
def withTransfer (a : Access) (t : Option Transfer) : Access := { a with transfer := t }

/-- The access after some more data bytes. -/
def advanceBy : Nat → Access → Access
  | 0, a => a
  | k + 1, a => advanceBy k a.advance

/-- After a data byte, the CRC byte of the field where one follows. -/
def closeField (crc : Option Byte) (u : State) : State :=
  match u.port.phase with
  | .fieldCrc _ t => u.clockByte (crc.getD t.crc)
  | _ => u

/-- Where no CRC byte is awaited, none follows. -/
theorem closeField_none {u : State} (h : ∀ a t, u.port.phase ≠ .fieldCrc a t) (crc : Option Byte) : closeField crc u = u := by
  unfold closeField
  split
  · rename_i a t e
    exact absurd e (h a t)
  · rfl

theorem clockFieldByte_data {s : State} {a : Access} (h : s.port.phase = .data a) (crc : Option Byte) (b : Byte) :
    State.clockFieldByte crc s b = closeField crc (s.dataByte a b) := by
  have : s.clockByte b = s.dataByte a b := by unfold State.clockByte; rw [h]
  unfold State.clockFieldByte
  rw [this]
  rfl

/-- What the end of a field of a write leads to: the flags of its last byte, its CRC byte, and its application. -/
def endWrite (crc : Option Byte) (s : State) (a : Access) (t : Transfer) : State :=
  let s1 := s.lastByte a t
  if s.port.frameCrc && !a.writesPair then
    if t.crc = crc.getD t.crc then (s1.emit [.highZ]).applyAndGoOn a t
    else ((s1.emit [.highZ]).flagIf a.taken .crcMismatch).afterField a
  else s1.applyAndGoOn a t

theorem afterField_phase (s : State) (a b : Access) (t : Transfer) : (s.afterField a).port.phase ≠ .fieldCrc b t := by
  unfold State.afterField
  split
  · simp [State.setPhase, State.setPort]
  · split
    · simp [State.setPhase, State.setPort]
    · split <;> simp [State.setPhase, State.setPort]

theorem applyTransfer_stand (a : Access) (t : Transfer) :
    (stand s ph sd fc).applyTransfer a t = stand (s.applyTransfer a t) ph sd fc := by
  unfold State.applyTransfer
  rw [stand_ite, stand_ite, applyField_stand, writeCrcEnablePair_stand]

theorem afterField_stand (a : Access) (ph' : PortPhase) :
    (stand s ph sd fc).afterField a = (stand s ph' sd fc).afterField a := by
  rw [afterField_eq, afterField_eq]
  rfl

theorem applyAndGoOn_stand (a : Access) (t : Transfer) (ph' : PortPhase) :
    (stand s ph sd fc).applyAndGoOn a t = (stand s ph' sd fc).applyAndGoOn a t := by
  unfold State.applyAndGoOn
  rw [applyTransfer_stand, applyTransfer_stand]
  exact afterField_stand _ _ _ _ (a.noteApplied t) _

theorem lastByte_write (s : State) (a : Access) (t : Transfer) (h : a.isRead = false) :
    s.lastByte a t = s.flagIf (a.taken && !a.duringClear && (t.field.readOnly || (t.field == .crcEnablePair && !a.writesPair)))
      .readOnlyWrite := by
  unfold State.lastByte
  cases ht : a.taken <;> cases hd : a.duringClear <;> simp [h, State.flagIf]

theorem flagIf_stand (c : Bool) (e : ErrorFlag) : (stand s ph sd fc).flagIf c e = stand (s.flagIf c e) ph sd fc := by
  cases c <;> rfl

theorem emit_stand (s : State) (out : List Sdo) :
    s.emit out = stand s s.port.phase (s.port.sdo ++ out) s.port.frameCrc := rfl

theorem stand_emit (out : List Sdo) : (stand s ph sd fc).emit out = stand s ph (sd ++ out) fc := rfl

theorem stand_frameCrc : (stand s ph sd fc).port.frameCrc = fc := rfl

theorem endWrite_stand (crc : Option Byte) (a : Access) (t : Transfer) (hr : a.isRead = false)
    (ph' : PortPhase) : endWrite crc (stand s ph sd fc) a t = endWrite crc (stand s ph' sd fc) a t := by
  unfold endWrite
  simp only [lastByte_write _ _ _ hr, flagIf_stand, stand_emit, stand_frameCrc]
  rw [applyAndGoOn_stand _ ph _ _ a t ph', applyAndGoOn_stand _ ph _ _ a t ph', afterField_stand _ ph _ _ a ph']

theorem dataByte_inside {s : State} {a : Access} {t : Transfer} (b : Byte)
    (hs : a.sharedOnly = true → sharedAddr a.addr = true) (ht : a.transfer = some t) (hl : 2 ≤ t.left)
    (hc : a.loopsAt (a.count + 1) = false) :
    s.dataByte a b =
      stand s (.data (withTransfer a.advance (some (t.cross a.isRead b))))
        (s.port.sdo ++ [if a.isRead && a.taken then .byte (t.latch.headD 0) else .highZ]) s.port.frameCrc := by
  unfold State.dataByte
  rw [if_neg (by
    intro h
    simp only [Bool.and_eq_true, Bool.not_eq_true'] at h
    rw [hs h.1.2] at h
    exact absurd h.2 (by decide)), ht]
  unfold State.transferByte
  dsimp only
  rw [if_neg (by show ¬ t.left - 1 = 0; omega), hc]
  rfl

theorem dataByte_last {s : State} {a : Access} {t : Transfer} (b : Byte)
    (hs : a.sharedOnly = true → sharedAddr a.addr = true) (ht : a.transfer = some t) (hl : t.left = 1) :
    s.dataByte a b =
      (s.emit [if a.isRead && a.taken then .byte (t.latch.headD 0) else .highZ]).finishField
        (withTransfer a.advance none) (t.cross a.isRead b) := by
  unfold State.dataByte
  rw [if_neg (by
    intro h
    simp only [Bool.and_eq_true, Bool.not_eq_true'] at h
    rw [hs h.1.2] at h
    exact absurd h.2 (by decide)), ht]
  unfold State.transferByte
  dsimp only
  rw [if_pos (by show t.left - 1 = 0; omega)]
  rfl

theorem frameCrc_flagIf (s : State) (c : Bool) (e : ErrorFlag) : (s.flagIf c e).port.frameCrc = s.port.frameCrc := by
  cases c <;> rfl

/-- After the last byte of a field that is written, its CRC byte where one is in force. -/
theorem clock_finishField (crc : Option Byte) (s : State) (a : Access) (t : Transfer) (hr : a.isRead = false) :
    closeField crc (s.finishField a t) = endWrite crc s a t := by
  unfold endWrite State.finishField
  dsimp only
  rw [lastByte_write _ _ _ hr]
  generalize hs1 : s.flagIf _ _ = s1
  have hf : s.port.frameCrc = s1.port.frameCrc := by rw [← hs1, frameCrc_flagIf]
  rw [hf]
  by_cases hc : (s1.port.frameCrc && !a.writesPair) = true
  · rw [if_pos hc, if_pos hc]
    show (s1.setPhase (.fieldCrc a t)).fieldCrcByte a t (crc.getD t.crc) = _
    unfold State.fieldCrcByte
    rw [if_neg (by simp [hr])]
    show (if t.crc = crc.getD t.crc then
        (stand s1 (.fieldCrc a t) (s1.port.sdo ++ [.highZ]) s1.port.frameCrc).applyAndGoOn a t
      else ((stand s1 (.fieldCrc a t) (s1.port.sdo ++ [.highZ]) s1.port.frameCrc).flagIf a.taken .crcMismatch).afterField a) = _
    rw [applyAndGoOn_stand _ _ _ _ a t s1.port.phase, flagIf_stand, afterField_stand _ _ _ _ a s1.port.phase, ← flagIf_stand]
    rfl
  · rw [if_neg hc, if_neg hc]
    exact closeField_none (fun b t' => afterField_phase (s1.applyTransfer a t) (a.noteApplied t) b t') crc

theorem clockFieldByte_inside {s : State} {a : Access} {t : Transfer} (crc : Option Byte) (b : Byte)
    (h : s.port.phase = .data a) (hs : a.sharedOnly = true → sharedAddr a.addr = true) (ht : a.transfer = some t)
    (hl : 2 ≤ t.left) (hc : a.loopsAt (a.count + 1) = false) :
    State.clockFieldByte crc s b =
      stand s (.data (withTransfer a.advance (some (t.cross a.isRead b))))
        (s.port.sdo ++ [if a.isRead && a.taken then .byte (t.latch.headD 0) else .highZ]) s.port.frameCrc := by
  rw [clockFieldByte_data h, dataByte_inside b hs ht hl hc]
  rfl

theorem advanceBy_withTransfer (t : Option Transfer) : ∀ (k : Nat) (a : Access),
    advanceBy k (withTransfer a t) = withTransfer (advanceBy k a) t
  | 0, _ => rfl
  | k + 1, a => advanceBy_withTransfer t k a.advance

theorem taken_advanceBy : ∀ (k : Nat) (a : Access), (advanceBy k a).taken = a.taken
  | 0, _ => rfl
  | k + 1, a => taken_advanceBy k a.advance

theorem isRead_advanceBy : ∀ (k : Nat) (a : Access), (advanceBy k a).isRead = a.isRead
  | 0, _ => rfl
  | k + 1, a => isRead_advanceBy k a.advance

/-- A run of bytes that ends a field which a write has begun. -/
theorem run_write (crc : Option Byte) : ∀ (bs : List Byte) (s : State) (a : Access) (t : Transfer), bs ≠ [] →
    a.taken = true → a.isRead = false → a.transfer = some t → t.left = bs.length →
    (∀ k < bs.length, a.sharedOnly = true → sharedAddr (advanceBy k a).addr = true) →
    (∀ k, 0 < k → k < bs.length → a.loopsAt (a.count + k) = false) → s.port.phase = .data a →
    bs.foldl (State.clockFieldByte crc) s =
      endWrite crc (s.emit (List.replicate bs.length .highZ)) (withTransfer (advanceBy bs.length a) none)
        { t with left := 0, latch := t.latch.drop bs.length, crossed := t.crossed ++ bs } := by
  intro bs
  induction bs with
  | nil => intro _ _ _ h; exact absurd rfl h
  | cons b rest ih =>
    intro s a t _ hta hr ht hl hsh hlp hph
    have hs0 : a.sharedOnly = true → sharedAddr a.addr = true := hsh 0 (by simp)
    rw [List.foldl_cons]
    cases rest with
    | nil =>
      have hl1 : t.left = 1 := by simpa using hl
      rw [clockFieldByte_data hph, dataByte_last b hs0 ht hl1, clock_finishField crc _ _ _ (by exact hr)]
      simp only [hr, Bool.false_and, Bool.false_eq_true, if_false, List.foldl_nil]
      show endWrite crc (s.emit [.highZ]) _ _ = endWrite crc (s.emit [.highZ]) _ _
      unfold Transfer.cross
      rw [hl1]
      simp [advanceBy]
    | cons c rest' =>
      have hl2 : 2 ≤ t.left := by rw [hl]; simp
      have hc1 : a.loopsAt (a.count + 1) = false := hlp 1 (by omega) (by simp)
      rw [clockFieldByte_inside crc b hph hs0 ht hl2 hc1]
      rw [ih _ (withTransfer a.advance (some (t.cross a.isRead b))) (t.cross a.isRead b) (by simp) hta hr rfl
        (by show t.left - 1 = _; rw [hl]; simp) (fun k hk => by
          have := hsh (k + 1) (by simpa using hk)
          rw [advanceBy_withTransfer]
          exact this)
        (fun k h0 hk => by
          have := hlp (k + 1) (by omega) (by simpa using hk)
          rw [show a.count + (k + 1) = a.count + 1 + k from by omega] at this
          exact this) rfl]
      rw [stand_emit, endWrite_stand _ _ _ _ _ _ _ (by rw [advanceBy_withTransfer]; exact (isRead_advanceBy _ _).trans hr) s.port.phase]
      rw [advanceBy_withTransfer]
      unfold Transfer.cross
      simp only [hr, Bool.false_and, Bool.false_eq_true, if_false, emit_stand, List.append_assoc]
      have e : t.latch.tail.drop (c :: rest').length = t.latch.drop (b :: c :: rest').length := by simp
      rw [e]
      rfl

/-! ## Fields and their addresses -/

/-- A field of the map, or an address that belongs to none. -/
def Genuine (f : Field) : Prop := fieldAt f.base = f

theorem genuine_spec {f : Field} (h : Genuine f) :
    1 ≤ f.length ∧ f.base.toNat + f.length ≤ 8192 ∧ (f.base.toNat ≤ 15 → f.base.toNat + f.length ≤ 16) := by
  cases f with
  | unknown a =>
    have := a.isLt
    simp only [Field.base, Field.length]; omega
  | schedulePosition p => clear h; revert p; decide
  | recordImage i =>
    have := i.isLt
    simp only [Field.base, Field.length, BitVec.toNat_ofNat]; omega
  | _ => decide

theorem fieldAt_record {a : HostAddr} (h : 0x0400 ≤ a.toNat ∧ a.toNat < 0x1C00) :
    fieldAt a = .recordImage ⟨(a.toNat - 0x0400) / 16, by omega⟩ := by
  unfold fieldAt; rw [dif_pos h]

theorem fieldAt_low {a : HostAddr} (h : ¬ (0x0400 ≤ a.toNat ∧ a.toNat < 0x1C00)) :
    fieldAt a = match registerFields.find? (·.holds a) with | some f => f | none => .unknown a := by
  exact dif_neg h

theorem low_fields : ∀ f ∈ registerFields, fieldAt f.base = f ∧ fieldAt (f.first .descending) = f := by decide

theorem genuine_first {f : Field} (h : Genuine f) (d : Direction) : fieldAt (f.first d) = f := by
  cases d with
  | ascending => exact h
  | descending =>
    by_cases hl : f.length = 1
    · have : f.first .descending = f.base := by simp [Field.first, hl]
      rw [this]; exact h
    · cases f with
      | unknown a => exact absurd rfl hl
      | recordImage i =>
        have hi := i.isLt
        have e : ((Field.recordImage i).first .descending).toNat = 0x0400 + 16 * i.val + 15 := by
          simp only [Field.first, Field.base, Field.length, BitVec.toNat_add, BitVec.toNat_ofNat]; omega
        rw [fieldAt_record (by rw [e]; omega)]
        congr 1
        apply Fin.ext
        simp only [e]; omega
      | schedulePosition p => exact (low_fields _ (by clear h hl; revert p; decide)).2
      | _ => exact (low_fields _ (by decide)).2

theorem genuine_fieldAt (a : HostAddr) : Genuine (fieldAt a) := by
  unfold Genuine
  by_cases h : 0x0400 ≤ a.toNat ∧ a.toNat < 0x1C00
  · rw [fieldAt_record h]
    have e : (Field.base (.recordImage ⟨(a.toNat - 0x0400) / 16, by omega⟩)).toNat = 0x0400 + 16 * ((a.toNat - 0x0400) / 16) := by
      simp only [Field.base, BitVec.toNat_ofNat]; omega
    rw [fieldAt_record (by rw [e]; omega)]
    refine congrArg Field.recordImage (Fin.ext ?_)
    simp only [e]; omega
  · rw [fieldAt_low h]
    cases hf : registerFields.find? (·.holds a) with
    | some f => exact (low_fields f (List.mem_of_find?_eq_some hf)).1
    | none =>
      show fieldAt a = .unknown a
      rw [fieldAt_low h, hf]

theorem first_toNat {f : Field} (h : Genuine f) (d : Direction) :
    (f.first d).toNat = match d with
      | .ascending => f.base.toNat
      | .descending => f.base.toNat + f.length - 1 := by
  have := genuine_spec h
  cases d with
  | ascending => rfl
  | descending => simp only [Field.first, BitVec.toNat_add, BitVec.toNat_ofNat]; omega

theorem bytesToEnd_first {f : Field} (h : Genuine f) (d : Direction) : bytesToEnd f d (f.first d) = f.length := by
  have := genuine_spec h
  have e := first_toNat h d
  cases d with
  | ascending => simp only [bytesToEnd]; rw [e]; dsimp only; omega
  | descending => simp only [bytesToEnd]; rw [e]; dsimp only; omega

/-! ## An access moves through a field -/

theorem count_advanceBy : ∀ (k : Nat) (a : Access), (advanceBy k a).count = a.count + k
  | 0, _ => rfl
  | k + 1, a => by
    rw [advanceBy, count_advanceBy k]
    show a.count + 1 + k = _
    omega

theorem advanceBy_succ : ∀ (k : Nat) (a : Access), advanceBy (k + 1) a = (advanceBy k a).advance
  | 0, _ => rfl
  | k + 1, a => advanceBy_succ k a.advance

theorem advanceBy_eq : ∀ (k : Nat) (a : Access),
    advanceBy k a = { a with count := a.count + k, addr := (advanceBy k a).addr }
  | 0, _ => rfl
  | k + 1, a => by
    rw [advanceBy_succ, advanceBy_eq k a]
    rfl

theorem uncut_spec {a : Access} {n : Nat} (h : a.uncut n = true) {k : Nat} (h0 : 0 < k) (hk : k < n) :
    a.loopsAt (a.count + k) = false := by
  unfold Access.uncut at h
  have := List.all_eq_true.mp h k (List.mem_range.mpr hk)
  unfold Access.loopsAt
  have hk0 : (k == 0) = false := by simp; omega
  rw [hk0, Bool.false_or] at this
  cases hm : a.mode with
  | singleField => rfl
  | streaming =>
    rw [hm] at this
    simp at this ⊢
    intro hl
    exact this.resolve_left hl

theorem loopsAt_advanceBy (a : Access) (j k : Nat) : (advanceBy j a).loopsAt k = a.loopsAt k := by
  rw [advanceBy_eq]; rfl

/-- Inside a field the address moves one byte at a time. -/
theorem addr_advanceBy {a : Access} {n : Nat} (hu : ∀ k, 0 < k → k < n → a.loopsAt (a.count + k) = false)
    (hd : a.direction = .descending → n ≤ a.addr.toNat + 1) : ∀ k < n,
    (advanceBy k a).addr = match a.direction with
      | .ascending => a.addr + BitVec.ofNat 13 k
      | .descending => a.addr - BitVec.ofNat 13 k := by
  intro k
  induction k with
  | zero => intro _; cases a.direction <;> simp [advanceBy]
  | succ k ih =>
    intro hk
    rw [advanceBy_succ]
    show (if (advanceBy k a).loopsAt ((advanceBy k a).count + 1) then (advanceBy k a).start
      else nextAddr (advanceBy k a).direction (advanceBy k a).addr) = _
    rw [loopsAt_advanceBy, count_advanceBy, show a.count + k + 1 = a.count + (k + 1) from by omega,
      hu (k + 1) (by omega) hk, if_neg (by decide)]
    have e : (advanceBy k a).direction = a.direction := by rw [advanceBy_eq]
    rw [e]
    have ih := ih (by omega)
    cases hdir : a.direction with
    | ascending =>
      rw [hdir] at ih
      rw [ih]
      apply BitVec.eq_of_toNat_eq
      simp [nextAddr, BitVec.toNat_add]
      omega
    | descending =>
      rw [hdir] at ih
      have := hd hdir
      rw [ih]
      have : ¬ a.addr - BitVec.ofNat 13 k = 0 := by
        intro h
        have := congrArg BitVec.toNat h
        have l := a.addr.isLt
        simp [BitVec.toNat_sub] at this
        omega
      simp only [nextAddr, if_neg this]
      apply BitVec.eq_of_toNat_eq
      have l := a.addr.isLt
      simp [BitVec.toNat_sub]
      omega

/-- R146: the access behind the rest of a field. -/
theorem advanceBy_rest {a : Access} {f : Field} {n : Nat} (h : Genuine f) (hn1 : 1 ≤ n) (hn2 : n ≤ f.length)
    (hu : a.uncut n = true)
    (ha : a.addr = (match a.direction with
      | .ascending => f.base + BitVec.ofNat 13 (f.length - n)
      | .descending => f.base + BitVec.ofNat 13 (n - 1))) : advanceBy n a = a.past f n := by
  have hs := genuine_spec h
  obtain ⟨m, rfl⟩ : ∃ m, n = m + 1 := ⟨n - 1, by omega⟩
  have hk := addr_advanceBy (a := a) (n := m + 1) (fun k h0 hk => uncut_spec hu h0 hk)
    (by
      intro hd
      rw [ha, hd]
      dsimp only
      simp only [BitVec.toNat_add, BitVec.toNat_ofNat]
      omega) m (by omega)
  rw [advanceBy_succ]
  unfold Access.past
  rw [advanceBy_eq m]
  show ({ a with count := a.count + m + 1, addr := if a.loopsAt (a.count + m + 1) then a.start
      else nextAddr a.direction (advanceBy m a).addr } : Access) = _
  rw [hk]
  congr 1
  have hl : a.loopsAt (a.count + m + 1) = true ↔ (a.mode = .streaming ∧ a.loop ≠ 0 ∧ (a.count + (m + 1)) % a.loop = 0) := by
    unfold Access.loopsAt
    rw [show a.count + (m + 1) = a.count + m + 1 from rfl]
    simp [and_assoc]
  by_cases hc : a.loopsAt (a.count + m + 1) = true
  · rw [if_pos hc, if_pos (hl.mp hc)]
  · rw [if_neg hc, if_neg (fun h => hc (hl.mpr h))]
    rw [ha]
    cases hdir : a.direction with
    | ascending =>
      simp only [nextAddr]
      apply BitVec.eq_of_toNat_eq
      simp [BitVec.toNat_add]
      omega
    | descending =>
      have e : f.base + BitVec.ofNat 13 (m + 1 - 1) - BitVec.ofNat 13 m = f.base := by simp
      simp only [nextAddr, e]

/-- R146, R147: the access behind a whole field. -/
theorem advanceBy_past {a : Access} {f : Field} (h : Genuine f) (ha : a.addr = f.first a.direction)
    (hu : a.uncut f.length = true) : advanceBy f.length a = a.past f f.length :=
  advanceBy_rest h (genuine_spec h).1 (Nat.le_refl _) hu (by
    rw [ha]
    unfold Field.first
    cases a.direction <;> simp)

theorem shared_advanceBy {a : Access} {f : Field} (h : Genuine f) (ha : a.addr = f.first a.direction)
    (hu : a.uncut f.length = true) (hs : sharedAddr f.base = true) {k : Nat} (hk : k < f.length) :
    sharedAddr (advanceBy k a).addr = true := by
  have hg := genuine_spec h
  have hf := first_toNat h a.direction
  unfold sharedAddr at hs ⊢
  simp only [decide_eq_true_eq] at hs ⊢
  have e := addr_advanceBy (a := a) (n := f.length) (fun k h0 hk => uncut_spec hu h0 hk)
    (by intro hd; rw [ha, hf, hd]; dsimp only; omega) k hk
  rw [e, ha]
  have hs' : f.base.toNat ≤ 15 := hs
  have := hg.2.2 hs'
  cases hdir : a.direction with
  | ascending =>
    rw [hdir] at hf
    simp only [BitVec.toNat_add, BitVec.toNat_ofNat, hf]
    omega
  | descending =>
    rw [hdir] at hf
    simp only [BitVec.toNat_sub, BitVec.toNat_ofNat, hf]
    omega

/-! ## A field that is written whole -/

theorem transferByte_write (a : Access) (t : Transfer) (x : Option Transfer) (b : Byte) (hr : a.isRead = false)
    (ph' : PortPhase) :
    (stand s ph sd fc).transferByte a t b = (stand s ph' sd fc).transferByte (withTransfer a x) t b := by
  unfold State.transferByte
  show (if (t.cross a.isRead b).left = 0 then
      ((stand s ph sd fc).emit [if a.isRead && a.taken then .byte (t.latch.headD 0) else .highZ]).finishField
        (withTransfer a.advance none) (t.cross a.isRead b)
    else if a.loopsAt (a.count + 1) then _ else _) =
    (if (t.cross a.isRead b).left = 0 then
      ((stand s ph' sd fc).emit [if a.isRead && a.taken then .byte (t.latch.headD 0) else .highZ]).finishField
        (withTransfer a.advance none) (t.cross a.isRead b)
    else if a.loopsAt (a.count + 1) then _ else _)
  split
  · unfold State.finishField
    dsimp only
    have hr' : (withTransfer a.advance none).isRead = false := hr
    rw [lastByte_write _ _ _ hr', lastByte_write _ _ _ hr', stand_emit, stand_emit, flagIf_stand, flagIf_stand]
    show (if (fc && _) = true then _ else _) = (if (fc && _) = true then _ else _)
    split
    · rfl
    · exact applyAndGoOn_stand _ _ _ _ (withTransfer a.advance none) _ _
  · split
    · unfold State.cutField
      simp only [stand_emit, flagIf_stand]
      rfl
    · rfl

/-- What the first byte of a field that is written sets. -/
def beginFlags (s : State) (a : Access) (f : Field) : State :=
  if a.duringClear then s.flag .notReady else s.flagIf f.isUnknown .unknownAddress

theorem beginFlags_stand (a : Access) (f : Field) :
    beginFlags (stand s ph sd fc) a f = stand (beginFlags s a f) ph sd fc := by
  unfold beginFlags
  rw [stand_ite, flagIf_stand]
  rfl

theorem startEffects_write {s : State} {a : Access} {f : Field} (hf : fieldAt a.addr = f) (hm : a.inMiddle = false)
    (h : a.taken = true) (hr : a.isRead = false) : s.startEffects a = beginFlags s a f := by
  unfold State.startEffects beginFlags
  simp [hf, hm, h, hr, State.flagIf]

/-- The transfer of a whole field, as a write begins it. -/
def wholeWrite (f : Field) : Transfer := ⟨f, false, f.base, f.length, [], []⟩

theorem newTransfer_write {s : State} {a : Access} {f : Field} (hg : Genuine f) (ha : a.addr = f.first a.direction)
    (hr : a.isRead = false) : s.newTransfer a = wholeWrite f := by
  have hf : fieldAt a.addr = f := by rw [ha]; exact genuine_first hg _
  unfold State.newTransfer wholeWrite State.latchBytes Access.inMiddle
  rw [hf, hr, ha]
  dsimp only
  rw [bytesToEnd_first hg]
  simp only [bne_self_eq_false, Bool.not_false, if_true]
  unfold lowestOf Field.first
  cases a.direction <;> rfl

/-- The bytes of a whole field that is written, with its CRC byte where one is in force. -/
theorem write_field (crc : Option Byte) {s : State} {a : Access} {f : Field} {bs : List Byte} (hg : Genuine f)
    (h : a.taken = true) (hr : a.isRead = false) (hn : a.transfer = none) (ha : a.addr = f.first a.direction)
    (hs : a.sharedOnly = true → sharedAddr f.base = true) (hu : a.uncut f.length = true) (hl : bs.length = f.length)
    (hp : s.port.phase = .data a) :
    bs.foldl (State.clockFieldByte crc) s =
      endWrite crc ((beginFlags s a f).emit (List.replicate f.length .highZ)) (a.past f f.length)
        { wholeWrite f with left := 0, crossed := bs } := by
  have hgs := genuine_spec hg
  have hf : fieldAt a.addr = f := by rw [ha]; exact genuine_first hg _
  have hm : a.inMiddle = false := by unfold Access.inMiddle; rw [hf, ha]; simp
  have hadv := advanceBy_past hg ha hu
  have hsh : ∀ k < bs.length, a.sharedOnly = true → sharedAddr (advanceBy k a).addr = true :=
    fun k hk hso => shared_advanceBy hg ha hu (hs hso) (hl ▸ hk)
  have hlp : ∀ k, 0 < k → k < bs.length → a.loopsAt (a.count + k) = false := fun k h0 hk => uncut_spec hu h0 (hl ▸ hk)
  have hb : beginFlags s a f = stand (beginFlags s a f) (.data a) (beginFlags s a f).port.sdo (beginFlags s a f).port.frameCrc := by
    have : (beginFlags s a f).port.phase = .data a := by
      unfold beginFlags
      split
      · exact hp
      · cases f.isUnknown <;> exact hp
    unfold stand; rw [← this]
  obtain ⟨b, rest, rfl⟩ : ∃ b rest, bs = b :: rest := by
    cases bs with
    | nil => simp at hl; omega
    | cons b rest => exact ⟨b, rest, rfl⟩
  have hdb : s.dataByte a b =
      (stand (beginFlags s a f) (.data (withTransfer a (some (wholeWrite f)))) (beginFlags s a f).port.sdo
        (beginFlags s a f).port.frameCrc).dataByte (withTransfer a (some (wholeWrite f))) b := by
    have hc : ∀ a' : Access, a'.taken = a.taken → a'.sharedOnly = a.sharedOnly → a'.addr = a.addr →
        ¬ (a'.taken && a'.sharedOnly && !sharedAddr a'.addr) = true := by
      intro a' h1 h2 h3 hh
      rw [h1, h2, h3] at hh
      simp only [Bool.and_eq_true, Bool.not_eq_true'] at hh
      have := hsh 0 (by simp) hh.1.2
      rw [show (advanceBy 0 a).addr = a.addr from rfl] at this
      rw [this] at hh
      exact absurd hh.2 (by decide)
    unfold State.dataByte
    rw [if_neg (hc a rfl rfl rfl), if_neg (hc (withTransfer a (some (wholeWrite f))) rfl rfl rfl), hn]
    dsimp only
    rw [startEffects_write hf hm h hr, newTransfer_write hg ha hr]
    conv_lhs => rw [hb]
    exact transferByte_write _ _ _ _ _ _ _ _ hr _
  rw [List.foldl_cons, clockFieldByte_data hp, hdb, ← clockFieldByte_data (by rfl) crc b, ← List.foldl_cons]
  rw [run_write crc (b :: rest) _ (withTransfer a (some (wholeWrite f))) (wholeWrite f) (by simp) h hr rfl hl.symm
    (fun k hk hso => by rw [advanceBy_withTransfer]; exact hsh k hk hso) (fun k h0 hk => hlp k h0 hk) rfl]
  rw [advanceBy_withTransfer, stand_emit]
  have e : withTransfer (withTransfer (advanceBy (b :: rest).length a) (some (wholeWrite f))) none = a.past f f.length := by
    rw [hl, hadv]
    show ({ a.past f f.length with transfer := none } : Access) = _
    unfold Access.past
    rw [← hn]
  rw [e, hl, emit_stand]
  have e2 : ({ wholeWrite f with left := 0, latch := (wholeWrite f).latch.drop f.length, crossed := (wholeWrite f).crossed ++ (b :: rest) } : Transfer) =
      { wholeWrite f with left := 0, crossed := b :: rest } := by
    simp [wholeWrite]
  rw [e2]
  exact endWrite_stand _ _ _ _ _ (a.past f f.length) _ (by exact hr) _

end Sys2Proof.Laws
end

