-- ==== Sys2Proof/Laws/Rows.lean ====
section
/-! SUPPORT. The rows that transfer one field, as an equation each: the bytes of a write have the effect of the field's owner (hostWrite_good, hostWrite_bad), those of a read that acts latch and complete (latchRead_ready, completeRead_eq), and the host serial port ends where portAfter, portLatched and portRead say. -/

namespace Sys2Proof.Laws

open Sys2Proof.Machine

variable (s : State) (ph : PortPhase) (sd : List Sdo) (fc : Bool)

/-! ## A row opens its access -/

theorem statusBytes_clearing (s : State) : s.statusBytes.first.getLsbD 0 = s.clearing := by
  unfold State.statusBytes State.summaryLow
  generalize s.clearing = a
  generalize s.command.state.busy = b
  generalize s.attentionEvent = c
  generalize s.anyEvent = d
  generalize s.port.errors.any = e
  show ((marks [a, b, c, d, e]).extractLsb' 0 5).getLsbD 0 = a
  revert a b c d e
  decide

/-- R153: the status bytes are the five marks of the summary and the low byte of the cycle counter. -/
theorem statusBytes_eq : s.statusBytes = ⟨s.summary.extractLsb' 0 5, lowByte s.cycle.counter⟩ := by
  unfold State.statusBytes State.summary State.summaryLow
  congr 1
  generalize s.clearing = a
  generalize s.command.state.busy = b
  generalize s.attentionEvent = c
  generalize s.anyEvent = d
  generalize s.port.errors.any = e
  generalize s.cycle.state.class.getLsbD 0 = x
  generalize s.cycle.state.class.getLsbD 1 = y
  show (marks [a, b, c, d, e]).extractLsb' 0 5 = (marks [a, b, c, d, e, x, y]).extractLsb' 0 5
  revert a b c d e x y
  decide

theorem instructionBytes_chip (isRead : Bool) (chip : BitVec 2) (start : HostAddr) :
    (instructionBytes isRead chip start).1.extractLsb' 5 2 = chip := by
  unfold instructionBytes
  generalize start.extractLsb' 8 5 = x
  show (BitVec.ofBool isRead ++ chip ++ x).extractLsb' 5 2 = chip
  revert isRead chip x
  decide

theorem instructionBytes_read (isRead : Bool) (chip : BitVec 2) (start : HostAddr) :
    (instructionBytes isRead chip start).1.getLsbD 7 = isRead := by
  unfold instructionBytes
  generalize start.extractLsb' 8 5 = x
  show (BitVec.ofBool isRead ++ chip ++ x).getLsbD 7 = isRead
  revert isRead chip x
  decide

theorem instructionBytes_addr (isRead : Bool) (chip : BitVec 2) (start : HostAddr) :
    instructionAddr (instructionBytes isRead chip start).1 (instructionBytes isRead chip start).2 = start := by
  have h : (instructionBytes isRead chip start).1.extractLsb' 0 5 = start.extractLsb' 8 5 := by
    unfold instructionBytes
    generalize start.extractLsb' 8 5 = x
    show (BitVec.ofBool isRead ++ chip ++ x).extractLsb' 0 5 = x
    revert isRead chip x
    decide
  unfold instructionAddr
  rw [h]
  unfold instructionBytes
  apply BitVec.eq_of_toNat_eq
  have := start.isLt
  simp only [BitVec.toNat_append, BitVec.extractLsb'_toNat, Nat.shiftRight_zero]
  rw [← Nat.shiftLeft_add_eq_or_of_lt (by omega)]
  simp only [Nat.shiftLeft_eq, Nat.shiftRight_eq_div_pow]
  omega

/-- The access that a row begins, with the settings in force. -/
def rowBegins (s : State) (isRead : Bool) (start : HostAddr) (duringClear : Bool) : Access :=
  { taken := true, isRead := isRead, sharedOnly := false, start := start, addr := start, count := 0
    mode := s.port.config.mode, direction := s.port.config.direction, loop := s.port.loopLength.toNat
    keepLoop := s.port.config.keepLoop, duringClear := duringClear, loopWritten := false, alone := false
    transfer := none }

theorem newAccess_row (isRead : Bool) (start : HostAddr) (d : Bool) :
    s.newAccess (instructionBytes isRead s.port.chipCode start).1 (instructionBytes isRead s.port.chipCode start).2 d
      = rowBegins s isRead start d := by
  unfold State.newAccess rowBegins State.chipMatches
  rw [instructionBytes_chip, instructionBytes_read, instructionBytes_addr]
  simp

/-- What an instruction phase sends on SDO, with its host CRC byte where one is in force. -/
def instructionOut (s : State) (st : StatusBytes) (crc : Bool) : List Sdo :=
  (if s.port.config.statusSend then [.status st.first, .byte st.second] else [.highZ, .highZ])
    ++ (if crc then [.highZ] else [])

theorem beginData_stand (a : Access) :
    (stand s ph sd fc).beginData a = stand (s.flagIf a.turnedAway .notReady) (.data a) sd fc := by
  unfold State.beginData
  rw [flagIf_stand]
  rfl

theorem clockInstruction_eq (st : StatusBytes) (isRead : Bool) (start : HostAddr) :
    (stand s (.instruction none st) sd fc).clockInstruction isRead start =
      stand (s.flagIf (rowBegins s isRead start (st.first.getLsbD 0)).turnedAway .notReady)
        (.data (rowBegins s isRead start (st.first.getLsbD 0)))
        (sd ++ instructionOut s st (fc && !(rowBegins s isRead start (st.first.getLsbD 0)).writesPair)) fc := by
  unfold State.clockInstruction
  show (match State.port (State.clockByte (stand s (.instruction (some (instructionBytes isRead s.port.chipCode start).1) st)
      (sd ++ [s.statusOut (instructionBytes isRead s.port.chipCode start).1 (.status st.first)]) fc)
        (instructionBytes isRead s.port.chipCode start).2) |>.phase with
    | .hostCrc _ _ _ => State.clockByte (State.clockByte (stand s (.instruction (some (instructionBytes isRead s.port.chipCode start).1) st)
      (sd ++ [s.statusOut (instructionBytes isRead s.port.chipCode start).1 (.status st.first)]) fc)
        (instructionBytes isRead s.port.chipCode start).2) _
    | _ => State.clockByte (stand s (.instruction (some (instructionBytes isRead s.port.chipCode start).1) st)
      (sd ++ [s.statusOut (instructionBytes isRead s.port.chipCode start).1 (.status st.first)]) fc)
        (instructionBytes isRead s.port.chipCode start).2) = _
  have hout : ∀ out, s.statusOut (instructionBytes isRead s.port.chipCode start).1 out =
      if s.port.config.statusSend then out else .highZ := by
    intro out
    unfold State.statusOut State.chipMatches
    rw [instructionBytes_chip]
    simp
  have hck : State.clockByte (stand s (.instruction (some (instructionBytes isRead s.port.chipCode start).1) st)
      (sd ++ [s.statusOut (instructionBytes isRead s.port.chipCode start).1 (.status st.first)]) fc)
        (instructionBytes isRead s.port.chipCode start).2 =
      (stand s (.instruction (some (instructionBytes isRead s.port.chipCode start).1) st)
        (sd ++ [s.statusOut (instructionBytes isRead s.port.chipCode start).1 (.status st.first)]
          ++ [s.statusOut (instructionBytes isRead s.port.chipCode start).1 (.byte st.second)]) fc).instructionEnd
        (instructionBytes isRead s.port.chipCode start).1 (instructionBytes isRead s.port.chipCode start).2
        (st.first.getLsbD 0) := rfl
  rw [hck, hout, hout]
  have hnew : ∀ ph sd, (stand s ph sd fc).newAccess (instructionBytes isRead s.port.chipCode start).1
      (instructionBytes isRead s.port.chipCode start).2 (st.first.getLsbD 0)
        = rowBegins s isRead start (st.first.getLsbD 0) := fun ph sd => newAccess_row s isRead start _
  generalize hB : rowBegins s isRead start (st.first.getLsbD 0) = B at hnew ⊢
  have hBt : B.taken = true := by rw [← hB]; rfl
  unfold State.instructionEnd
  simp only [hnew]
  rw [if_neg (by simp [hBt])]
  by_cases hc : (fc && !B.writesPair) = true
  · rw [if_pos (by exact hc), hc]
    show State.checkInstruction (stand s _ _ fc) _ _ _ _ = _
    unfold State.checkInstruction
    simp only [hnew]
    rw [if_pos (by rw [hBt]; exact beq_self_eq_true (crc8 instructionSeed _)), beginData_stand]
    unfold instructionOut
    cases s.port.config.statusSend <;> simp [stand]
  · rw [if_neg (by exact hc)]
    have hc' : (fc && !B.writesPair) = false := by simpa using hc
    rw [beginData_stand, hc']
    unfold instructionOut
    cases s.port.config.statusSend <;> simp [stand]

/-- R148: between two accesses the first byte captures the status and begins the instruction phase. -/
theorem clockInstruction_between {s : State} (h : s.port.phase = .between) (isRead : Bool) (start : HostAddr) :
    s.clockInstruction isRead start =
      (stand s (.instruction none s.statusBytes) s.port.sdo s.port.frameCrc).clockInstruction isRead start := by
  have hb : ∀ b, s.clockByte b = (stand s (.instruction none s.statusBytes) s.port.sdo s.port.frameCrc).clockByte b := by
    intro b
    unfold State.clockByte
    rw [h]
    rfl
  unfold State.clockInstruction
  dsimp only
  rw [hb]
  rfl

/-- What opening a row sets in the start-up clear. -/
def openFlag (s : State) (isRead : Bool) (start : HostAddr) : Bool :=
  match s.port.phase with
  | .data _ => false
  | _ => s.accessInClear && !(isRead && fieldAt start == .summary)

/-- The access of a row stands at its first data byte. -/
theorem openRow_eq {isRead : Bool} {start : HostAddr} (h : s.admitsAt start isRead = true) :
    s.openRow isRead start = stand (s.flagIf (openFlag s isRead start) .notReady) (.data (s.rowAccess isRead start))
      (s.rowPort isRead start).sdo (s.rowPort isRead start).frameCrc := by
  unfold State.admitsAt at h
  simp only [Bool.and_eq_true, Bool.not_eq_true'] at h
  have hpair : ∀ d, (rowBegins s isRead start d).writesPair = (rowBegins s isRead start d).atPair := fun _ => rfl
  unfold State.openRow openFlag State.rowAccess State.rowPort
  cases hp : s.port.phase with
  | idle =>
    have ho : s.openFrame = stand s (.instruction none s.statusBytes) [] s.port.crcOn := by
      unfold State.openFrame
      rw [hp]
      dsimp only
      rw [h.1.1]
      rfl
    dsimp only
    rw [ho, clockInstruction_eq, statusBytes_clearing]
    have hc : s.accessInClear = s.clearing := by unfold State.accessInClear; rw [hp]
    rw [hc]
    unfold instructionOut Access.turnedAway
    simp [State.rowAccess, hp, rowBegins, Access.atPair, Access.writesPair, hc]
    rfl
  | between =>
    have ho : s.openFrame = s := by
      unfold State.openFrame
      rw [hp]
    dsimp only
    rw [ho, clockInstruction_between hp, clockInstruction_eq, statusBytes_clearing]
    have hc : s.accessInClear = s.clearing := by unfold State.accessInClear; rw [hp]
    rw [hc]
    unfold instructionOut Access.turnedAway
    simp [State.rowAccess, hp, rowBegins, Access.atPair, Access.writesPair, hc]
    rfl
  | instruction f st =>
    cases f with
    | some f => rw [hp] at h; exact absurd h.2 (by simp)
    | none =>
      have ho : s.openFrame = stand s (.instruction none st) s.port.sdo s.port.frameCrc := by
        have e : s = stand s (.instruction none st) s.port.sdo s.port.frameCrc := by unfold stand; rw [← hp]
        unfold State.openFrame
        rw [hp]
        exact e
      dsimp only
      rw [ho, clockInstruction_eq]
      have hc : s.accessInClear = st.first.getLsbD 0 := by unfold State.accessInClear; rw [hp]
      rw [hc]
      unfold instructionOut Access.turnedAway
      simp [State.rowAccess, hp, rowBegins, Access.atPair, Access.writesPair, hc]
      rfl
  | data a =>
    dsimp only
    unfold stand
    rw [← hp]
    rfl
  | hostCrc _ _ _ => rw [hp] at h; exact absurd h.2 (by simp)
  | fieldCrc _ _ => rw [hp] at h; exact absurd h.2 (by simp)
  | disregard _ => rw [hp] at h; exact absurd h.2 (by simp)

/-! ## A row of one field -/

theorem flag_flagIf (s : State) (c : Bool) (e : ErrorFlag) : (s.flagIf c e).flag e = s.flag e := by
  cases c <;> cases e <;> rfl

/-- The access that a row of a field finds or begins. -/
theorem rowAccess_spec {f : Field} {isRead : Bool} (h : s.admits f isRead = true) :
    let a := s.rowAccess isRead (f.first s.rowDirection)
    a.taken = true ∧ a.isRead = isRead ∧ a.transfer = none ∧ a.direction = s.rowDirection
      ∧ a.addr = f.first a.direction ∧ a.duringClear = s.accessInClear := by
  unfold State.admits State.admitsAt at h
  simp only [Bool.and_eq_true, Bool.not_eq_true'] at h
  unfold State.rowAccess State.rowDirection State.accessInClear
  unfold State.rowDirection at h
  cases hp : s.port.phase with
  | idle => exact ⟨rfl, rfl, rfl, rfl, rfl, rfl⟩
  | between => exact ⟨rfl, rfl, rfl, rfl, rfl, rfl⟩
  | instruction f st =>
    cases f with
    | some f => rw [hp] at h; exact absurd h.2 (by simp)
    | none => exact ⟨rfl, rfl, rfl, rfl, rfl, rfl⟩
  | data a =>
    rw [hp] at h
    have h2 := h.2
    simp only [Bool.and_eq_true, Option.isNone_iff_eq_none, beq_iff_eq] at h2
    exact ⟨h2.1.1.1, h2.1.1.2, h2.1.2, rfl, h2.2, rfl⟩
  | hostCrc _ _ _ => rw [hp] at h; exact absurd h.2 (by simp)
  | fieldCrc _ _ => rw [hp] at h; exact absurd h.2 (by simp)
  | disregard _ => rw [hp] at h; exact absurd h.2 (by simp)

/-- The end of a field that is written, with the host serial port as `portBehind` says. -/
theorem endWrite_good {crc : Option Byte} {a : Access} {t : Transfer} (h : a.taken = true) (hr : a.isRead = false)
    (hc : (fc && !a.writesPair) = true → t.crc = crc.getD t.crc) :
    endWrite crc (stand s ph sd fc) a t =
      (let w := (s.flagIf (!a.duringClear && (t.field.readOnly || (t.field == .crcEnablePair && !a.writesPair)))
        .readOnlyWrite).applyTransfer a t
      let u := stand w w.port.phase (sd ++ (if fc && !a.writesPair then [.highZ] else [])) fc
      { w with port := u.portBehind (a.noteApplied t) false }) := by
  unfold endWrite
  rw [lastByte_write _ _ _ hr, flagIf_stand, h, Bool.true_and]
  generalize s.flagIf _ _ = v
  dsimp only
  rw [stand_frameCrc]
  by_cases hb : (fc && !a.writesPair) = true
  · rw [if_pos hb, if_pos (hc hb), if_pos hb]
    unfold State.applyAndGoOn
    rw [stand_emit, applyTransfer_stand, afterField_eq]
    rfl
  · rw [if_neg hb, if_neg hb]
    unfold State.applyAndGoOn
    rw [applyTransfer_stand, afterField_eq, List.append_nil]
    rfl

theorem endWrite_bad {crc : Option Byte} {a : Access} {t : Transfer} (h : a.taken = true) (hr : a.isRead = false)
    (hb : (fc && !a.writesPair) = true) (hc : ¬ t.crc = crc.getD t.crc) :
    endWrite crc (stand s ph sd fc) a t =
      (let w := (s.flagIf (!a.duringClear && (t.field.readOnly || (t.field == .crcEnablePair && !a.writesPair)))
        .readOnlyWrite).flag .crcMismatch
      let u := stand w w.port.phase (sd ++ [.highZ]) fc
      { w with port := u.portBehind a false }) := by
  unfold endWrite
  rw [lastByte_write _ _ _ hr, flagIf_stand, h, Bool.true_and]
  generalize s.flagIf _ _ = v
  dsimp only
  rw [stand_frameCrc, if_pos hb, if_neg hc, afterField_eq]
  rfl

/-- A row that made a frame of its own ends it. -/
theorem closeRow_eq {w u : State} {a : Access} (h : a.taken = true) (ht : a.transfer = none)
    (hu : u = stand w u.port.phase u.port.sdo u.port.frameCrc) (own : Bool) :
    State.closeRow { w with port := u.portBehind a false } own = { w with port := u.portBehind a own } := by
  cases own with
  | false => rfl
  | true =>
    unfold State.closeRow
    rw [hu]
    unfold State.portBehind State.closeFrame State.bitsCount State.fieldCut State.cutAtEnd State.endAccess State.closeAccess
    cases hs : w.port.softReset with
    | true => simp [hs, stand]
    | false =>
      cases hm : a.mode with
      | singleField =>
        cases hk : a.keepLoop <;> cases hw : a.loopWritten <;> simp [stand, hs, State.flagIf, State.setPhase, State.setPort]
      | streaming =>
        cases hp : a.atPair <;> cases hk : a.keepLoop <;> cases hw : a.loopWritten <;>
          simp [stand, hs, ht, h, hk, hw, State.flagIf, State.setPhase, State.setPort]

/-- What a row that writes a field sets: in the start-up clear NOT READY, otherwise the flags of an address that belongs to no field, of a read-only field and of the CRC enable pair reached by a stream. -/
def rowFlags (s : State) (f : Field) : State :=
  if s.accessInClear then s.flag .notReady
  else (s.flagIf f.isUnknown .unknownAddress).flagIf
    (f.readOnly || (f == .crcEnablePair && !(s.rowAccess false (f.first s.rowDirection)).atPair)) .readOnlyWrite

/-- What a row that writes a field does, its host CRC byte right or not in force. -/
def rowEffect (s : State) (f : Field) (bytes : List Byte) : State :=
  if s.accessInClear then s.flag .notReady
  else if f = .crcEnablePair ∧ (s.rowAccess false (f.first s.rowDirection)).atPair = true then
    s.writeCrcEnablePair (byteOf (orient s.rowDirection bytes) 0)
  else (rowFlags s f).applyField f bytes

theorem orient_orient (d : Direction) (bytes : List Byte) : orient d (orient d bytes) = bytes := by
  cases d <;> simp [orient]

theorem orient_length (d : Direction) (bytes : List Byte) : (orient d bytes).length = bytes.length := by
  cases d <;> simp [orient]

theorem past_direction (a : Access) (f : Field) (n : Nat) : (a.past f n).direction = a.direction := rfl

/-- The bytes of a row that writes a field, up to the end of the field. -/
theorem hostWrite_endWrite {s : State} {f : Field} {bytes : List Byte} (hg : Genuine f) (h : s.FieldNext f false)
    (hl : bytes.length = f.length) (crc : Option Byte) :
    s.hostWrite (f.first s.rowDirection) (orient s.rowDirection bytes) crc =
      (let a := s.rowAccess false (f.first s.rowDirection)
       let p := s.rowPort false (f.first s.rowDirection)
       let v := if s.accessInClear then s.flag .notReady else s.flagIf f.isUnknown .unknownAddress
       (endWrite crc (stand v (.data a) (p.sdo ++ List.replicate f.length .highZ) p.frameCrc) (a.past f f.length)
        { wholeWrite f with left := 0, crossed := orient s.rowDirection bytes }).closeRow s.port.phase.isIdle) := by
  obtain ⟨hadm, hsh, hun⟩ := h
  obtain ⟨h1, h2, h3, h4, h5, h6⟩ := rowAccess_spec s hadm
  have hadm' : s.admitsAt (f.first s.rowDirection) false = true := hadm
  unfold State.hostWrite
  rw [if_pos hadm', openRow_eq s hadm']
  generalize s.rowAccess false (f.first s.rowDirection) = a at *
  generalize s.rowPort false (f.first s.rowDirection) = p
  dsimp only
  rw [write_field crc hg h1 h2 h3 h5 hsh hun (by rw [orient_length, hl]) rfl, beginFlags_stand, stand_emit]
  congr 4
  unfold beginFlags
  rw [h6]
  unfold openFlag
  cases hc : s.accessInClear with
  | false =>
    cases s.port.phase <;> rfl
  | true =>
    rw [if_pos rfl, if_pos rfl, flag_flagIf]

theorem crossed_eq {a : Access} {s : State} {f : Field} (bytes : List Byte) (h4 : a.direction = s.rowDirection) :
    orient (a.past f f.length).direction (orient s.rowDirection bytes) = bytes := by
  rw [past_direction, h4, orient_orient]

/-- A row that writes a field, its host CRC byte right or not in force. -/
theorem hostWrite_good {s : State} {f : Field} {bytes : List Byte} (hg : Genuine f) (h : s.FieldNext f false)
    (hl : bytes.length = f.length) {crc : Option Byte}
    (hc : ∀ c ∈ crc, s.fieldCrcMatches f bytes c = true) :
    s.hostWrite (f.first s.rowDirection) (orient s.rowDirection bytes) crc =
      { rowEffect s f bytes with port := s.portAfter f (!s.accessInClear) (rowEffect s f bytes) } := by
  rw [hostWrite_endWrite hg h hl]
  obtain ⟨h1, h2, h3, h4, h5, h6⟩ := rowAccess_spec s h.1
  unfold State.fieldCrcMatches at hc
  unfold State.portAfter rowEffect rowFlags
  dsimp only
  generalize s.rowAccess false (f.first s.rowDirection) = a at *
  generalize s.rowPort false (f.first s.rowDirection) = p at *
  have hp : (a.past f f.length).writesPair = a.atPair := rfl
  rw [endWrite_good _ _ _ _ (by exact h1) (by exact h2) (by
    intro hb
    cases crc with
    | none => rfl
    | some c =>
      have := hc c rfl
      rw [hp] at hb
      rw [hb] at this
      simp only [Bool.not_true, Bool.false_or, beq_iff_eq] at this
      exact this)]
  rw [hp]
  dsimp only
  generalize hb : (p.frameCrc && !a.atPair) = b at *
  have happ : (a.past f f.length).applies { wholeWrite f with left := 0, crossed := orient s.rowDirection bytes } = !s.accessInClear := by
    unfold Access.applies
    show (!a.isRead && a.taken && !a.duringClear && !false) = _
    rw [h1, h2, h6]
    simp
  have hw : State.applyTransfer
      ((if s.accessInClear then s.flag .notReady else s.flagIf f.isUnknown .unknownAddress).flagIf
        (!(a.past f f.length).duringClear && ((wholeWrite f).field.readOnly || ((wholeWrite f).field == .crcEnablePair && !a.atPair)))
        .readOnlyWrite) (a.past f f.length) { wholeWrite f with left := 0, crossed := orient s.rowDirection bytes } =
      (if s.accessInClear then s.flag .notReady
       else if f = .crcEnablePair ∧ a.atPair = true then s.writeCrcEnablePair (byteOf (orient s.rowDirection bytes) 0)
       else (if s.accessInClear then s.flag .notReady
        else (s.flagIf f.isUnknown .unknownAddress).flagIf (f.readOnly || (f == .crcEnablePair && !a.atPair)) .readOnlyWrite).applyField
          f bytes) := by
    unfold State.applyTransfer
    rw [happ, crossed_eq bytes h4, hp]
    show _ = _
    rw [show (a.past f f.length).duringClear = a.duringClear from rfl, h6]
    cases hcl : s.accessInClear with
    | true => rfl
    | false =>
      show (if (a.atPair && f == .crcEnablePair) = true then _ else _) = _
      by_cases hq : f = .crcEnablePair ∧ a.atPair = true
      · obtain ⟨rfl, hq2⟩ := hq
        rw [hq2]
        rfl
      · rw [if_neg hq, if_neg (by
          intro hx
          simp only [Bool.and_eq_true, beq_iff_eq] at hx
          exact hq ⟨hx.2, hx.1⟩)]
        rfl
  have hn : (a.past f f.length).noteApplied { wholeWrite f with left := 0, crossed := orient s.rowDirection bytes } =
      { a.past f f.length with loopWritten := a.loopWritten || (!s.accessInClear && f == .loopLength) } := by
    unfold Access.noteApplied
    rw [happ]
    rfl
  rw [hw, hn]
  rw [closeRow_eq (by exact h1) (by exact h3) (by rfl)]
  unfold stand
  rw [List.append_assoc]
  have hrep : (List.replicate f.length Sdo.highZ ++ if b = true then [Sdo.highZ] else []) =
      List.replicate (f.length + if b = true then 1 else 0) Sdo.highZ := by
    cases b
    · simp
    · exact (List.replicate_succ' ..).symm
  rw [hrep]

/-- A row that writes a field whose host CRC byte is wrong. -/
theorem hostWrite_bad {s : State} {f : Field} {bytes : List Byte} (hg : Genuine f) (h : s.FieldNext f false)
    (hl : bytes.length = f.length) {crc : Byte} (hc : s.fieldCrcMatches f bytes crc = false) :
    s.hostWrite (f.first s.rowDirection) (orient s.rowDirection bytes) (some crc) =
      { (rowFlags s f).flag .crcMismatch with port := s.portAfter f false ((rowFlags s f).flag .crcMismatch) } := by
  rw [hostWrite_endWrite hg h hl]
  obtain ⟨h1, h2, h3, h4, h5, h6⟩ := rowAccess_spec s h.1
  unfold State.fieldCrcMatches at hc
  unfold State.portAfter rowFlags
  dsimp only
  generalize s.rowAccess false (f.first s.rowDirection) = a at *
  generalize s.rowPort false (f.first s.rowDirection) = p at *
  simp only [Bool.or_eq_false_iff, Bool.not_eq_false', beq_eq_false_iff_ne, ne_eq] at hc
  rw [endWrite_bad _ _ _ _ (by exact h1) (by exact h2) (by exact hc.1) (by exact hc.2), closeRow_eq (by exact h1) (by exact h3) (by rfl), hc.1]
  have hw : (if s.accessInClear then s.flag .notReady else s.flagIf f.isUnknown .unknownAddress).flagIf
        (!(a.past f f.length).duringClear && ((wholeWrite f).field.readOnly || ((wholeWrite f).field == .crcEnablePair && !(a.past f f.length).writesPair)))
        .readOnlyWrite =
      (if s.accessInClear then s.flag .notReady
        else (s.flagIf f.isUnknown .unknownAddress).flagIf (f.readOnly || (f == .crcEnablePair && !a.atPair)) .readOnlyWrite) := by
    rw [show (a.past f f.length).duringClear = a.duringClear from rfl, h6]
    cases s.accessInClear <;> rfl
  dsimp only
  have hw' := hw
  dsimp only [wholeWrite] at hw' ⊢
  rw [hw']
  have hpast : ({ a.past f f.length with loopWritten := a.loopWritten || (false && f == .loopLength) } : Access) = a.past f f.length := by
    simp [Access.past]
  rw [hpast]
  unfold stand
  rw [List.append_assoc, if_pos rfl, ← List.replicate_succ' (n := f.length)]

/-! ## The reads that act -/

theorem completeTake_stand : (stand s ph sd fc).completeTake = stand s.completeTake ph sd fc := by
  unfold State.completeTake
  change (match s.take with
    | none => _
    | some .noSubject => _
    | some (.record i _ latched since gone) => match (s.slot i).record with | some r => _ | none => _
    | some (.node n latched since gone) => _) = _
  cases s.take with
  | none => rfl
  | some x =>
    cases x with
    | noSubject => rfl
    | node n latched since gone => dsimp only; rw [stand_ite]; rfl
    | record i g latched since gone =>
      dsimp only
      cases (s.slot i).record with
      | none => rfl
      | some r => dsimp only; rw [stand_ite]; rfl

theorem completeDamaged_stand : (stand s ph sd fc).completeDamaged = stand s.completeDamaged ph sd fc := by
  unfold State.completeDamaged
  change (match s.line.damagedLatch with | none => _ | some d => _) = _
  cases s.line.damagedLatch <;> rfl

/-- What the last byte of a field that is read does. -/
theorem lastByte_read {s : State} {a : Access} {t : Transfer} (h : a.taken = true) (hr : a.isRead = true) (hm : t.middle = false) :
    s.lastByte a t =
      if a.duringClear then s
      else match t.field with
        | .takeField => s.completeTake
        | .damagedCount => s.completeDamaged
        | _ => s := by
  unfold State.lastByte
  cases hd : a.duringClear with
  | true => simp
  | false =>
    simp only [h, hr, hm, Bool.not_true, Bool.or_false, Bool.false_eq_true, if_false, if_true]
    cases t.field <;> rfl

theorem lastByte_read_stand {a : Access} {t : Transfer} (h : a.taken = true) (hr : a.isRead = true) (hm : t.middle = false) :
    (stand s ph sd fc).lastByte a t = stand (s.lastByte a t) ph sd fc := by
  rw [lastByte_read h hr hm, lastByte_read h hr hm, stand_ite]
  split
  · rfl
  · cases t.field <;> first | rfl | exact completeTake_stand s ph sd fc | exact completeDamaged_stand s ph sd fc

/-- What the end of a field that is read leads to: its CRC byte, and the place behind it. -/
def endRead (s : State) (a : Access) (t : Transfer) : State :=
  ((s.lastByte a t).emit (if s.port.frameCrc then [.byte t.crc] else [])).afterField a

theorem endRead_stand {a : Access} {t : Transfer} (h : a.taken = true) (hr : a.isRead = true) (hm : t.middle = false) (ph' : PortPhase) :
    endRead (stand s ph sd fc) a t = endRead (stand s ph' sd fc) a t := by
  unfold endRead
  rw [lastByte_read_stand _ _ _ _ h hr hm, lastByte_read_stand _ _ _ _ h hr hm, stand_frameCrc, stand_frameCrc, stand_emit, stand_emit]
  exact afterField_stand _ _ _ _ a _

theorem emit_nil (s : State) : s.emit [] = s := by
  unfold State.emit State.setPort
  rw [List.append_nil]

/-- After the last byte of a field that is read, the part's CRC byte where one is in force. -/
theorem clock_finishRead (s : State) (a : Access) (t : Transfer) (h : a.taken = true) (hr : a.isRead = true) :
    closeField none (s.finishField a t) = endRead s a t := by
  have hw : a.writesPair = false := by unfold Access.writesPair; rw [hr]; rfl
  unfold endRead State.finishField
  dsimp only
  rw [hw, Bool.not_false, Bool.and_true]
  by_cases hc : s.port.frameCrc = true
  · rw [if_pos hc, if_pos hc]
    show ((s.lastByte a t).setPhase (.fieldCrc a t)).fieldCrcByte a t t.crc = _
    unfold State.fieldCrcByte
    rw [if_pos hr, h, if_pos rfl]
    show (stand (s.lastByte a t) (.fieldCrc a t) ((s.lastByte a t).port.sdo ++ [.byte t.crc]) (s.lastByte a t).port.frameCrc).afterField a = _
    exact afterField_stand _ _ _ _ a _
  · rw [if_neg hc, if_neg hc, emit_nil]
    have happ : a.applies t = false := by unfold Access.applies; rw [hr]; rfl
    have e : (s.lastByte a t).applyAndGoOn a t = (s.lastByte a t).afterField a := by
      unfold State.applyAndGoOn State.applyTransfer Access.noteApplied
      rw [happ]
      simp
    rw [e]
    exact closeField_none (afterField_phase _ _) none

/-- A run of bytes that ends a field which a read has begun. -/
theorem run_read : ∀ (n : Nat) (s : State) (a : Access) (t : Transfer), 1 ≤ n → a.taken = true → a.isRead = true →
    a.sharedOnly = false → t.middle = false → a.transfer = some t → t.left = n → t.latch.length = n →
    (∀ k, 0 < k → k < n → a.loopsAt (a.count + k) = false) → s.port.phase = .data a →
    (List.replicate n 0).foldl (State.clockFieldByte none) s =
      endRead (s.emit (t.latch.map .byte)) (withTransfer (advanceBy n a) none)
        { t with left := 0, latch := [], crossed := t.crossed ++ t.latch } := by
  intro n
  induction n with
  | zero => intro _ _ _ h; omega
  | succ n ih =>
    intro s a t _ hta hr hso hm ht hl hlat hlp hph
    obtain ⟨b, rest, hb⟩ : ∃ b rest, t.latch = b :: rest := by
      cases hx : t.latch with
      | nil => rw [hx] at hlat; simp at hlat
      | cons b rest => exact ⟨b, rest, rfl⟩
    have hs0 : a.sharedOnly = true → sharedAddr a.addr = true := by intro h; rw [hso] at h; cases h
    rw [List.replicate_succ, List.foldl_cons]
    by_cases hn : n = 0
    · subst hn
      rw [clockFieldByte_data hph, dataByte_last 0 hs0 ht hl, clock_finishRead _ _ _ (by exact hta) (by exact hr)]
      rw [hb] at hlat
      have hrest : rest = [] := by simpa using hlat
      have e : t.cross a.isRead 0 = { t with left := 0, latch := [], crossed := t.crossed ++ [b] } := by
        unfold Transfer.cross
        rw [hl, hb, hrest, hr]
        simp
      rw [e, hb, hrest, hr, hta]
      rfl
    · have hc1 : a.loopsAt (a.count + 1) = false := hlp 1 (by omega) (by omega)
      rw [clockFieldByte_inside none 0 hph hs0 ht (by omega) hc1]
      have hlat' : (t.cross a.isRead 0).latch.length = n := by
        unfold Transfer.cross
        rw [hb] at hlat ⊢
        simpa using hlat
      rw [ih _ (withTransfer a.advance (some (t.cross a.isRead 0))) (t.cross a.isRead 0) (by omega) hta hr hso hm rfl
        (by show t.left - 1 = n; omega) hlat'
        (fun k h0 hk => by
          have := hlp (k + 1) (by omega) (by omega)
          rw [show a.count + (k + 1) = a.count + 1 + k from by omega] at this
          exact this) rfl]
      rw [stand_emit, advanceBy_withTransfer]
      rw [endRead_stand _ _ _ _ (by exact (taken_advanceBy _ _).trans hta) (by exact (isRead_advanceBy _ _).trans hr) (by exact hm) s.port.phase]
      rw [hr, hta]
      unfold Transfer.cross
      rw [hb]
      simp only [Bool.and_self, if_true, List.headD_cons, List.tail_cons, List.append_assoc, List.singleton_append, List.map_cons]
      rfl

/-- What the first byte of a field that is read latches. -/
def latched (s : State) : Field → State
  | .takeField => s.latchTake
  | .damagedCount => s.latchDamaged
  | _ => s

/-- What the last byte of a field that is read does. -/
def completed (s : State) : Field → State
  | .takeField => s.completeTake
  | .damagedCount => s.completeDamaged
  | _ => s

theorem latched_stand (f : Field) : latched (stand s ph sd fc) f = stand (latched s f) ph sd fc := by
  cases f <;> rfl

theorem rowPort_spec (isRead : Bool) (start : HostAddr) :
    s.rowPort isRead start = { s.port with
      frameCrc := (s.rowPort isRead start).frameCrc, sdo := (s.rowPort isRead start).sdo } := by
  unfold State.rowPort
  cases s.port.phase <;> rfl

theorem readField_stand_acts {f : Field} (h : f = .takeField ∨ f = .damagedCount) :
    (stand s ph sd fc).readField f = s.readField f := by
  rcases h with rfl | rfl <;> rfl

/-- The first byte of a field of at least two bytes, read as a row of its own, from what its start sets (`v`) and the bytes it latches. -/
theorem latchRead_eq {s v : State} {f : Field} {head : Byte} {rest : List Byte} (hg : Genuine f) (hlen : 2 ≤ f.length)
    (hne : f.first .descending ≠ 0) (h : s.FieldNext f true)
    (hv : v.port = { s.port with errors := v.port.errors })
    (hstart : ∀ (b : Access) (sd : List Sdo) (fc : Bool), b.taken = true → b.isRead = true → fieldAt b.addr = f →
      b.inMiddle = false → b.duringClear = s.accessInClear →
      (stand (s.flagIf (openFlag s true (f.first s.rowDirection)) .notReady) (.data b) sd fc).startEffects b
        = stand v (.data b) sd fc)
    (hbytes : ∀ (b : Access) (sd : List Sdo) (fc : Bool), b.isRead = true → b.addr = f.first b.direction →
      fieldAt b.addr = f → b.inMiddle = false → b.direction = s.rowDirection → b.duringClear = s.accessInClear →
      (stand v (.data b) sd fc).latchBytes b = head :: rest) :
    s.latchRead f = { v with port := { s.portLatched f head rest with errors := v.port.errors } } := by
  obtain ⟨hadm, hsh, hun⟩ := h
  obtain ⟨h1, h2, h3, h4, h5, h6⟩ := rowAccess_spec s hadm
  have hadm' : s.admitsAt (f.first s.rowDirection) true = true := hadm
  have hport := rowPort_spec s true (f.first s.rowDirection)
  unfold State.latchRead State.portLatched
  rw [if_pos hadm, openRow_eq s hadm']
  dsimp only
  generalize openFlag s true (f.first s.rowDirection) = c at *
  generalize s.rowAccess true (f.first s.rowDirection) = a at *
  generalize s.rowPort true (f.first s.rowDirection) = p at *
  obtain ⟨fc, sd, hp⟩ : ∃ fc sd, p = { s.port with frameCrc := fc, sdo := sd } := ⟨_, _, hport⟩
  subst hp
  clear hport
  generalize s.port.phase.isIdle = own
  generalize hB : ({ a with alone := a.alone || own } : Access) = b
  have hb1 : b.taken = true := by rw [← hB]; exact h1
  have hb2 : b.isRead = true := by rw [← hB]; exact h2
  have hb3 : b.transfer = none := by rw [← hB]; exact h3
  have hb4 : b.direction = s.rowDirection := by rw [← hB]; exact h4
  have hb5 : b.addr = f.first b.direction := by rw [← hB]; exact h5
  have hb6 : b.duringClear = s.accessInClear := by rw [← hB]; exact h6
  have hbs : b.sharedOnly = true → sharedAddr f.base = true := by rw [← hB]; exact hsh
  have hbu : b.uncut f.length = true := by rw [← hB]; exact hun
  have hfa : fieldAt b.addr = f := by rw [hb5]; exact genuine_first hg _
  have hmid : b.inMiddle = false := by unfold Access.inMiddle; rw [hfa, hb5]; simp
  have hshared : ¬ (b.taken && b.sharedOnly && !sharedAddr b.addr) = true := by
    intro hx
    simp only [Bool.and_eq_true, Bool.not_eq_true'] at hx
    have := shared_advanceBy hg hb5 hbu (hbs hx.1.2) (k := 0) (by omega)
    rw [show (advanceBy 0 b).addr = b.addr from rfl, hx.2] at this
    cases this
  show State.dataByte (stand (s.flagIf c .notReady) (.data { a with alone := a.alone || own }) sd fc)
    { a with alone := a.alone || own } 0 = _
  rw [hB]
  have hnew : (stand v (.data b) sd fc).newTransfer b = ⟨f, false, f.base, f.length, head :: rest, []⟩ := by
    unfold State.newTransfer
    rw [hbytes b sd fc hb2 hb5 hfa hmid hb4 hb6, hfa, hmid]
    dsimp only
    rw [hb5, bytesToEnd_first hg]
    unfold lowestOf Field.first
    cases b.direction <;> rfl
  unfold State.dataByte
  rw [if_neg hshared, hb3]
  dsimp only
  rw [hstart b sd fc hb1 hb2 hfa hmid hb6, hnew]
  unfold State.transferByte
  rw [if_neg (by show ¬ f.length - 1 = 0; omega)]
  dsimp only
  have hlp : b.loopsAt (b.count + 1) = false := uncut_spec hbu (by omega) (by omega)
  rw [hlp, if_neg (by decide), hb2, hb1]
  have hadv : b.advance = { b with
      count := a.count + 1
      addr := match a.direction with
        | .ascending => f.first s.rowDirection + 1
        | .descending => f.first s.rowDirection - 1 } := by
    unfold Access.advance
    rw [hlp, if_neg (by decide), hb5, hb4, h4, ← hB]
    unfold nextAddr
    cases hd : s.rowDirection with
    | ascending => rfl
    | descending => rw [if_neg hne]
  rw [hadv, ← hB]
  unfold State.setPhase State.emit State.setPort stand
  dsimp only
  rw [hv]
  rfl

/-- R144: a row that reads the first byte of a field of a read that acts. -/
theorem latchRead_ready {s : State} {f : Field} (hf : f = .takeField ∨ f = .damagedCount) (h : s.HostReady f true)
    {head : Byte} {rest : List Byte} (hb : orient s.rowDirection ((latched s f).readField f) = head :: rest) :
    s.latchRead f = { latched s f with port := s.portLatched f head rest } := by
  have hof : openFlag s true (f.first s.rowDirection) = false := by
    unfold openFlag
    rw [h.2]
    cases s.port.phase <;> rfl
  have hv : (latched s f).port = { s.port with errors := (latched s f).port.errors } := by
    rcases hf with rfl | rfl <;> rfl
  have herr : (latched s f).port.errors = (s.portLatched f head rest).errors := by
    unfold State.portLatched
    dsimp only
    rw [rowPort_spec]
    rcases hf with rfl | rfl <;> rfl
  have e := latchRead_eq (s := s) (v := latched s f) (f := f) (head := head) (rest := rest)
    (by rcases hf with rfl | rfl <;> (show fieldAt _ = _; decide)) (by rcases hf with rfl | rfl <;> decide)
    (by rcases hf with rfl | rfl <;> decide) h.1 hv
    (by
      intro b sd fc hb1 hb2 hfa hmid hb6
      rw [hof, ← latched_stand]
      unfold State.startEffects
      rw [hfa, hb1, hb6, h.2, hmid, hb2]
      rcases hf with rfl | rfl <;> rfl)
    (by
      intro b sd fc hb2 hb5 hfa hmid hb4 hb6
      unfold State.latchBytes
      rw [hfa, hmid, hb2, hb6, h.2]
      dsimp only
      rw [readField_stand_acts _ _ _ _ hf, hb4]
      exact hb)
  rw [e, herr]

/-- R155: the same during the start-up clear: NOT READY, and bytes of 0. -/
theorem latchRead_inClear {s : State} {f : Field} (hf : f = .takeField ∨ f = .damagedCount) (h : s.FieldNext f true)
    (hcl : s.accessInClear = true) :
    s.latchRead f = { s with port :=
      { s.portLatched f 0 (List.replicate (f.length - 1) 0) with errors := s.port.errors.set .notReady } } := by
  have hg : Genuine f := by rcases hf with rfl | rfl <;> (show fieldAt _ = _; decide)
  exact latchRead_eq (s := s) (v := s.flag .notReady) (f := f) hg (by rcases hf with rfl | rfl <;> decide)
    (by rcases hf with rfl | rfl <;> decide) h rfl
    (by
      intro b sd fc hb1 hb2 hfa hmid hb6
      rw [← flag_flagIf s (openFlag s true (f.first s.rowDirection)) .notReady]
      unfold State.startEffects
      rw [hfa, hb1, hb6, hcl, hb2]
      rcases hf with rfl | rfl <;> rfl)
    (by
      intro b sd fc hb2 hb5 hfa hmid hb4 hb6
      unfold State.latchBytes
      rw [hfa, hb2, hb6, hcl]
      dsimp only
      rw [hb5, bytesToEnd_first hg]
      rcases hf with rfl | rfl <;> rfl)

/-- R144, R151: a row that reads the rest of a field of a read that acts. -/
theorem completeRead_eq {s : State} {f : Field} {a : Access} {t : Transfer} (hf : f = .takeField ∨ f = .damagedCount)
    (h : s.Reading f a t) :
    s.completeRead f =
      (let c := if a.duringClear then s else completed s f
       { c with port := s.portRead f a t c }) := by
  have hg : Genuine f := by rcases hf with rfl | rfl <;> (show fieldAt _ = _; decide)
  obtain ⟨hr, hsr, hp, ht, hrd, hso, htr, htf, hm, hl1, hl2, hlat, hun, hadr⟩ := h
  have hap : a.atPair = false := by unfold Access.atPair; rw [hrd]; rfl
  have hadv := advanceBy_rest hg hl1 (by omega) hun hadr
  have hrun := run_read t.left s a t hl1 ht hrd hso hm htr rfl hlat (fun k h0 hk => uncut_spec hun h0 hk) hp
  unfold State.completeRead
  rw [hp]
  dsimp only
  rw [htr]
  dsimp only
  rw [if_pos (by rw [ht, hrd, htf, hm, hr, hsr]; simp), hrun, hadv]
  have hlb : ∀ x : State, x.lastByte (withTransfer (a.past f t.left) none) { t with left := 0, latch := [], crossed := t.crossed ++ t.latch }
      = if a.duringClear then x else completed x f := by
    intro x
    rw [lastByte_read (by exact ht) (by exact hrd) (by exact hm)]
    show (if a.duringClear then x else match t.field with | .takeField => x.completeTake | .damagedCount => x.completeDamaged | _ => x) = _
    rw [htf]
    rcases hf with rfl | rfl <;> rfl
  unfold endRead
  rw [hlb]
  have hst : (if a.duringClear then s.emit (t.latch.map .byte) else completed (s.emit (t.latch.map .byte)) f) =
      stand (if a.duringClear then s else completed s f) s.port.phase (s.port.sdo ++ t.latch.map .byte) s.port.frameCrc := by
    rw [stand_ite]
    split
    · rfl
    · rcases hf with rfl | rfl
      · exact completeTake_stand s s.port.phase _ s.port.frameCrc
      · exact completeDamaged_stand s s.port.phase _ s.port.frameCrc
  rw [hst]
  have hcp : (if a.duringClear then s else completed s f).port = s.port := by
    have h1 : s.completeTake.port = s.port := by
      unfold State.completeTake
      split
      · rfl
      · rfl
      · split
        · split <;> rfl
        · rfl
      · split <;> rfl
    have h2 : s.completeDamaged.port = s.port := by
      unfold State.completeDamaged
      split <;> rfl
    split
    · rfl
    · rcases hf with rfl | rfl
      · exact h1
      · exact h2
  generalize (if a.duringClear then s else completed s f) = c at hcp
  rw [stand_emit, afterField_eq]
  unfold State.portRead
  dsimp only
  show State.closeRow { c with port := State.portBehind (stand c s.port.phase _ s.port.frameCrc) _ false } a.alone = _
  rw [closeRow_eq (by exact ht) (by rfl) (by rfl)]
  rw [show (s.emit (t.latch.map .byte)).port.frameCrc = s.port.frameCrc from rfl]
  rw [← hcp]
  rfl

end Sys2Proof.Laws
end

