-- ==== Sys2Proof/Laws/Host.lean ====
section
/-! SUPPORT. The forms in which statements use a row of the host: a row that writes a field leads to its owner's effect (leads_of_write, leads_of_command), or is turned away (turnedAway_inClear). -/

namespace Sys2Proof.Laws

open Sys2Proof.Machine

/-- The owner's effect of a plain field is all that its row does. -/
theorem rowEffect_plain {s : State} {f : Field} (hc : s.accessInClear = false) (hu : f.isUnknown = false)
    (hr : f.readOnly = false) (hp : f ≠ .crcEnablePair) (bytes : List Byte) : rowEffect s f bytes = s.applyField f bytes := by
  unfold rowEffect rowFlags
  rw [hc, hu, hr, if_neg (by decide), if_neg (fun h => hp h.1), if_neg (by decide)]
  have : (f == .crcEnablePair) = false := by simpa using hp
  rw [this]
  rfl

/-- R144: a row that writes a field leads to what the field's owner makes of the bytes. -/
theorem leads_of_row {s : State} {i : Instr} {f : Field} {bytes : List Byte} (hg : Genuine f) (h : s.HostReady f false)
    (hl : bytes.length = f.length) (hf : writtenField i = some f) (he : exec i s = .next (s.writeField f bytes)) :
    Leads s i (rowEffect s f bytes) := by
  refine ⟨f, hf, ?_⟩
  rw [he]
  unfold State.writeField
  rw [hostWrite_good hg h.1 hl (by simp), h.2]
  rfl

/-- The same for a field that is neither read-only nor unknown nor the CRC enable pair. -/
theorem leads_of_write {s : State} {i : Instr} {f : Field} {bytes : List Byte} (hg : Genuine f) (h : s.HostReady f false)
    (hl : bytes.length = f.length) (hu : f.isUnknown = false) (hr : f.readOnly = false) (hp : f ≠ .crcEnablePair)
    (hf : writtenField i = some f) (he : exec i s = .next (s.writeField f bytes)) :
    Leads s i (s.applyField f bytes) :=
  rowEffect_plain h.2 hu hr hp bytes ▸ leads_of_row hg h hl hf he

/-- R155: a row that writes a field during the start-up clear is turned away with NOT READY. -/
theorem turnedAway_inClear {s : State} {i : Instr} {f : Field} {bytes : List Byte} (hg : Genuine f)
    (h : s.FieldNext f false) (hc : s.accessInClear = true) (hl : bytes.length = f.length)
    (hf : writtenField i = some f) (he : exec i s = .next (s.writeField f bytes)) :
    TurnedAway s i (s.flag .notReady) := by
  refine ⟨f, hf, ?_⟩
  rw [he]
  unfold State.writeField
  rw [hostWrite_good hg h hl (by simp), hc]
  unfold rowEffect
  rw [hc]
  rfl

/-- A row that is admitted nowhere has no occasion (log 3). -/
theorem hostWrite_refused {s : State} {start : HostAddr} (h : s.admitsAt start false = false) (sdi : List Byte)
    (crc : Option Byte) : s.hostWrite start sdi crc = s := by
  unfold State.hostWrite
  rw [h, if_neg (by decide)]

/-- A command code written while the command unit is IDLE. -/
theorem takeCommand_idle {s : State} (h : s.command.state = .idle) (code : Byte) (body : State → State) :
    s.takeCommand code body = body (s.setCommand { s.command with code := code }) := by
  simp [State.takeCommand, h, CommandState.busy]

/-- R133: a command code written while the command unit is BUSY. -/
theorem takeCommand_busy {s : State} (h : s.command.state.busy = true) (code : Byte) (body : State → State) :
    s.takeCommand code body = s.flag .commandRefused := by
  simp [State.takeCommand, h]

/-- A command row leads to what the write of its code does. -/
theorem leads_of_code {s : State} {i : Instr} {code : Byte} (h : s.CommandReady)
    (hf : writtenField i = some .commandCode) (he : exec i s = .next (s.writeField .commandCode [code])) :
    Leads s i (s.writeCommandCode code) :=
  leads_of_write (f := .commandCode) (by unfold Genuine; decide) h.1 rfl rfl rfl (by decide) hf he

/-- The form in which the statements about commands use it. -/
theorem leads_of_command {s t : State} {i : Instr} {code : Byte} {body : State → State} (h : s.CommandReady)
    (hf : writtenField i = some .commandCode) (he : exec i s = .next (s.writeField .commandCode [code]))
    (hw : s.writeCommandCode code = s.takeCommand code body)
    (hb : body (s.setCommand { s.command with code := code }) = t) : Leads s i t := by
  have := leads_of_code h hf he
  rwa [hw, takeCommand_idle h.2, hb] at this

/-- While RSTN is not held low an event has its effect. -/
theorem unlessHeld_eq {s : State} (h : s.resetHeld = false) (f : State → State) : unlessHeld f s = f s := by
  simp [unlessHeld, h]

/-- R154: while RSTN is held low an event has none. -/
theorem unlessHeld_held {s : State} (h : s.resetHeld = true) (f : State → State) : unlessHeld f s = s := by
  simp [unlessHeld, h]

/-- R135: a command ends. -/
theorem finish_eq (s : State) (code : ResultCode) (slot : Nat) (generation : Byte) (count : Nat) :
    s.finish code slot generation count = s.ended s.command.code s.command.image ⟨code, slot, generation, count⟩ := rfl

/-- R154: every reset leaves the values after reset, the port given and the waiting operations. -/
theorem resetWith_eq (s : State) (port : HostPort) :
    s.resetWith port = { State.reset with port := port, pending := s.pending } := rfl

end Sys2Proof.Laws
end

