-- ==== Sys2Proof/Laws/Commands.lean ====
section
/-! SUPPORT. What the argument checks and the searches of the host commands answer: INSERT, AMEND, RETIRE, OFFER, RETIRE NODE and the schedule. -/

namespace Sys2Proof.Laws

open Sys2Proof.Machine

/-! ## Arguments (R157) -/

theorem group?_isSome (g : Byte) : (group? g).isSome = true ↔ g.toNat ≤ 7 := by revert g; decide

theorem yesNo?_isSome (b : Byte) : (yesNo? b).isSome = true ↔ b.toNat ≤ 1 := by revert b; decide

theorem yesNo?_eq {b : Byte} (h : b.toNat ≤ 1) : yesNo? b = some (b == 1) := by revert b; decide

theorem group?_eq {g : Byte} (h : g.toNat ≤ 7) : group? g = some (g.setWidth 3) := by
  unfold group?
  rw [if_pos (by omega)]

/-- R12 check 1 fails. -/
theorem insertArguments_none {s : State} : s.command.insertArguments = none ↔ ¬ s.InsertArgumentsGood := by
  unfold CommandUnit.insertArguments State.InsertArgumentsGood
  rw [← group?_isSome, ← yesNo?_isSome, ← yesNo?_isSome]
  cases hk : s.command.argKey with
  | none => simp [argKey_eq_none.1 hk]
  | some k =>
    have : s.ArgKeyInRange := by
      by_contra h
      rw [argKey_eq_none.2 h] at hk
      cases hk
    simp only [this, true_and]
    cases group? s.command.window.group <;> cases yesNo? s.command.window.permit <;>
      cases yesNo? s.command.window.select <;> simp

/-- R12 check 1 passes. -/
theorem insertArguments_some {s : State} (h : s.InsertArgumentsGood) {k : Key} (hk : s.ArgKey k) :
    s.command.insertArguments =
      some ⟨k, s.command.window.group.setWidth 3, s.command.window.permit == 1,
        if s.command.window.select = 1 then some s.command.window.first else none⟩ := by
  obtain ⟨_, h1, h2, h3⟩ := h
  unfold CommandUnit.insertArguments
  rw [argKey_eq_some.2 hk, group?_eq h1, yesNo?_eq h2, yesNo?_eq h3]
  simp

/-- R12 checks 2 and 3 pass. -/
theorem cmdInsert_pass {s : State} {a : InsertArguments} (h : s.command.insertArguments = some a)
    (h1 : (s.node a.key.node).state ≠ .free) (h2 : (s.node a.key.node).state ≠ .retiring) :
    s.cmdInsert = s.insertRecord a := by
  unfold State.cmdInsert
  rw [h]
  dsimp only
  split <;> first | rfl | contradiction

/-- R14 checks 1 to 4. -/
theorem amendArgumentsBad_iff {s : State} :
    s.AmendArgumentsBad ↔ (384 ≤ s.command.argWord.toNat ∨ s.command.amendArguments = none) := by
  unfold State.AmendArgumentsBad CommandUnit.amendArguments
  simp only
  generalize s.command.window = w
  have e : w.select.extractLsb' 0 7 = 0 ↔ (∀ b < 7, w.select.getLsbD b = false) := by
    generalize w.select = x
    revert x
    decide
  have e1 : ∀ g : Byte, (group? g).isNone = true ↔ 7 < g.toNat := by decide
  have e2 : ∀ g : Byte, (yesNo? g).isNone = true ↔ 1 < g.toNat := by decide
  rw [← e, ← e1, ← e2]
  split
  · simp only [or_true]
    tauto
  · split
    · simp only [or_true]
      tauto
    · simp only [reduceCtorEq, or_false]
      tauto

/-- R14 checks 1 to 4 pass. -/
theorem amendArguments_some {s : State} (h : ¬ s.AmendArgumentsBad) :
    s.command.amendArguments =
      let w := s.command.window
      let bit := w.select.getLsbD
      some ⟨bit 0, bit 1, bit 2, bit 3, bit 4, bit 5, bit 6, w.first, w.second, (group? w.group).getD 0,
        (yesNo? w.permit).getD false⟩ := by
  rw [amendArgumentsBad_iff] at h
  have := (not_or.1 h).2
  unfold CommandUnit.amendArguments at *
  dsimp only at *
  split at this
  · simp at this
  · split at this
    · simp at this
    · simp_all

/-! ## Slots, the last record of a node -/

/-- R70: after a removal the entry has lost its last record exactly when it is RETIRING and had one record. -/
theorem lastRecordGone_removeRecord {s : State} {i : SlotNo} {r : Record} (h : (s.slot i).record = some r) :
    (s.removeRecord i).lastRecordGone r.node = true ↔
      ((s.node r.node).state = .retiring ∧ (s.node r.node).recordCount - 1 = 0) := by
  rw [removeRecord_eq h]
  simp [State.lastRecordGone, State.afterRemoval, State.node]

/-- R21: the slot after a slot. -/
theorem nextSlot_eq {i j : SlotNo} (h : j.val = i.val + 1) : nextSlot i = j := by
  have := j.isLt
  unfold nextSlot
  rw [dif_pos (by omega)]
  exact Fin.ext h.symm

theorem reasons_nonempty (r : RecordReasons) : r.isEmpty = false ↔ r ≠ .none := by
  cases r with
  | mk a b c => cases a <;> cases b <;> cases c <;> simp [RecordReasons.isEmpty, RecordReasons.none]

theorem eq_addressByte_iff (g : Byte) (n : NodeNo) : g = addressByte n ↔ g.toNat = nodeAddress n := by
  rw [← addressByte_toNat]
  exact BitVec.toNat_inj.symm

/-! ## Nodes -/

/-- R51 check 1 fails. -/
theorem offerTarget_none {s : State}
    (h : ¬ (1 ≤ (s.command.argByte 0).toNat ∧ (s.command.argByte 0).toNat ≤ 239
      ∧ s.line.rangeLow.toNat ≤ (s.command.argByte 0).toNat
      ∧ (s.command.argByte 0).toNat ≤ s.line.rangeHigh.toNat)) : s.offerTarget = none := by
  unfold State.offerTarget
  split
  · rw [nodeNo?_eq_none]
    tauto
  · rfl

/-- R51 check 1 passes. -/
theorem offerTarget_some {s : State} {n : NodeNo} (h : (s.command.argByte 0).toNat = nodeAddress n)
    (h1 : s.line.rangeLow.toNat ≤ (s.command.argByte 0).toNat)
    (h2 : (s.command.argByte 0).toNat ≤ s.line.rangeHigh.toNat) : s.offerTarget = some n := by
  unfold State.offerTarget
  rw [if_pos ⟨h1, h2⟩, nodeNo?_eq_some]
  exact h

theorem identityHolder_some {s : State} (hl : s.IdentityLaw) {m : NodeNo} {v : Identity}
    (h1 : (s.node m).state ≠ .free) (h2 : (s.node m).identity = some v) : s.identityHolder v = some m := by
  unfold State.identityHolder
  cases h : (List.finRange 239).find? (fun n => (s.node n).state != .free && (s.node n).identity == some v) with
  | none =>
    have := List.find?_eq_none.1 h m (List.mem_finRange m)
    simp_all
  | some k =>
    have := List.find?_some h
    simp at this
    congr 1
    exact hl k m this.1 h1 (by simp [this.2]) (this.2.trans h2.symm)

theorem identityHolder_none {s : State} {v : Identity}
    (h : ∀ m : NodeNo, (s.node m).state ≠ .free → (s.node m).identity ≠ some v) : s.identityHolder v = none := by
  unfold State.identityHolder
  rw [List.find?_eq_none]
  intro m _
  have := h m
  simp
  exact this

theorem validIdentity_iff (v : Identity) : validIdentity v = true ↔ v ≠ 0 ∧ v ≠ BitVec.allOnes 64 := by
  simp [validIdentity]

theorem freeNode_makeRetiring (s : State) (n : NodeNo) : (s.makeRetiring n).freeNode n = s.afterRelease n := by
  simp [State.makeRetiring, State.freeNode, State.afterRelease, State.setNode, State.retireSubject]

/-! ## The schedule -/

theorem schedulePlace_some {s : State} (h : s.ScheduleLaw) {target : Word16} {p : Nat} {e : ScheduleEntry}
    (he : s.schedule[p]? = some e) (ht : e.target = target) : s.schedulePlace target = some p := by
  obtain ⟨hp, he'⟩ := List.getElem?_eq_some_iff.1 he
  unfold State.schedulePlace
  rw [List.findIdx?_eq_some_iff_getElem]
  refine ⟨hp, by simp [he', ht], ?_⟩
  intro j hj
  simp
  intro hc
  have hn := List.nodup_iff_injective_get.1 h.2.2
  have := @hn ⟨j, by simp; omega⟩ ⟨p, by simpa using hp⟩ (by simp [hc, he', ht])
  simp at this
  omega

theorem schedulePlace_none {s : State} {target : Word16} :
    s.schedulePlace target = none ↔ ∀ e ∈ s.schedule, e.target ≠ target := by
  unfold State.schedulePlace
  rw [List.findIdx?_eq_none_iff]
  simp

/-- R80: a merge changes the one entry of its target. -/
theorem map_merge {es : List ScheduleEntry} {target : Word16} {mask : Byte} {p : Nat} {e : ScheduleEntry}
    (h : (es.map (·.target)).Nodup) (he : es[p]? = some e) (ht : e.target = target) :
    es.map (ScheduleEntry.merge target mask) = es.set p ⟨target, e.mask ||| mask⟩ := by
  obtain ⟨hp, he'⟩ := List.getElem?_eq_some_iff.1 he
  apply List.ext_getElem (by simp)
  intro j h1 h2
  rw [List.getElem_map, List.getElem_set]
  split
  · rename_i hh
    subst hh
    rw [he']
    simp [ScheduleEntry.merge, ht]
  · rename_i hh
    unfold ScheduleEntry.merge
    rw [if_neg]
    intro hc
    have hn := List.nodup_iff_injective_get.1 h
    have := @hn ⟨j, by simpa using h1⟩ ⟨p, by simpa using hp⟩ (by simp [hc, he', ht])
    simp at this
    omega

/-! ## The command code field -/

/-- R140: a code that names no command. -/
theorem writeCommandCode_unknown {code : Byte} (h : code ∉ commandCodes) (s : State) :
    s.writeCommandCode code = s.takeCommand code State.unknownCommand := by
  simp [commandCodes] at h
  unfold State.writeCommandCode
  simp [h, abortCode]

theorem busy_of_ne_idle {s : State} (h : s.command.state ≠ .idle) : s.command.state.busy = true := by
  cases hs : s.command.state <;> simp_all [CommandState.busy]

/-- R134: a guarded field while BUSY. -/
theorem writeGuarded_busy {s : State} (h : s.command.state ≠ .idle) (c : CommandUnit) :
    s.writeGuarded c = s.flag .windowLocked := by
  unfold State.writeGuarded
  rw [if_pos (busy_of_ne_idle h)]

/-- R134: a guarded field while IDLE. -/
theorem writeGuarded_idle {s : State} (h : s.command.state = .idle) (c : CommandUnit) :
    s.writeGuarded c = s.setCommand c := by
  unfold State.writeGuarded
  rw [h]
  rfl

end Sys2Proof.Laws
end

