-- ==== Sys2Proof/Laws/Line.lean ====
section
/-! SUPPORT. What the line controller's operations do: LISTEN, gaps, beacons, answers, the receiver, the node gate and announces. -/

namespace Sys2Proof.Laws

open Sys2Proof.Machine

/-! ## The controller -/

/-- R112: handing over an answer. -/
theorem handOver_eq (s : State) (a : Answer) : s.handOver a = { s with line := s.line.answering a } := rfl

/-- R114: from LISTEN a pending beacon is taken at once. -/
theorem takeBeacon_listen {s : State} (h : s.line.state = .listen) :
    s.takeBeacon = { s with line := s.line.resting } := by
  have e : ({ s.line with state := LineState.listen } : LineController) = s.line := by rw [← h]
  unfold State.takeBeacon LineController.resting
  rw [h]
  cases hb : s.line.beacon
  · simp
    rw [← hb, e]
  · simp
    unfold State.enterGap State.setLine
    rw [← hb]

theorem takeBeacon_busy {s : State} (h : s.line.state ≠ .listen) : s.takeBeacon = s := by
  unfold State.takeBeacon
  split <;> first | rfl | contradiction

/-- R110, R114: the end of a frame that yields no answer. -/
theorem endWithoutAnswer_eq (s : State) : s.endWithoutAnswer = { s with line := s.line.resting } :=
  takeBeacon_listen (s := s.toListen) rfl

/-- In LISTEN with no beacon pending such an end changes nothing. -/
theorem endWithoutAnswer_listen {s : State} (h : s.line.state = .listen) (hb : s.line.beacon = none) :
    s.endWithoutAnswer = s := by
  rw [endWithoutAnswer_eq]
  have : s.line.resting = s.line := by
    unfold LineController.resting
    rw [hb]
    simp
    rw [← h, ← hb]
  rw [this]

/-- R94, R114: a beacon request. -/
theorem requestBeacon_eq (s : State) (number : Word16) :
    s.requestBeacon number = { s with line := s.line.requested number } := by
  rcases s with ⟨d, n, sc, lf, cy, ⟨st, x1, x2, x3, x4, x5, x6, x7, x8, x9⟩, a1, a2, a3, a4, a5, a6, a7, a8, a9, a10⟩
  rcases st with _ | r | ⟨c, l, r⟩ | ⟨c, w, r⟩
  · rfl
  · rfl
  · cases c <;> rfl
  · cases c <;> rfl

/-- R115: the cancelling of a beacon. -/
theorem cancelBeacon_eq (s : State) : s.cancelBeacon = { s with line := s.line.cancelled } := by
  rcases s with ⟨d, n, sc, lf, cy, ⟨st, x1, x2, x3, x4, x5, x6, x7, x8, x9⟩, a1, a2, a3, a4, a5, a6, a7, a8, a9, a10⟩
  rcases st with _ | r | ⟨c, l, r⟩ | ⟨c, w, r⟩
  · rfl
  · rfl
  · cases c <;> rfl
  · cases c <;> rfl

theorem cancelled_resting {l : LineController} (h : l.state = .listen) (hb : l.beacon = none) (hh : l.held = none) :
    l.cancelled = l := by
  obtain ⟨st, x1, x2, x3, x4, x5, x6, x7, x8, x9⟩ := l
  dsimp only at h hb hh
  subst h hb hh
  rfl

/-- The law of the line controller in LISTEN. -/
theorem lineLaw_listen {s : State} (h : s.line.state = .listen) (hl : s.LineLaw) :
    s.line.answer = none ∧ s.line.beacon = none ∧ s.line.held = none := by
  unfold State.LineLaw at hl
  rw [h] at hl
  exact hl

/-- R118: a whole frame arrives while the part does not receive. -/
theorem arrive_deaf {s : State} (h : s.receives = false) (same : Reception → Bool) (deliver : State → State) :
    s.arrive same deliver = s := by
  unfold State.arrive
  simp [h]

/-- R118: bytes arrive while the part does not receive. -/
theorem lineBytes_deaf {s : State} (h : s.receives = false) (bytes : List LineByte) : s.lineBytes bytes = s := by
  have hb : ∀ b, s.lineByte b = s := fun b => by unfold State.lineByte; simp [h]
  unfold State.lineBytes
  induction bytes with
  | nil => rfl
  | cons b rest ih => rw [List.foldl_cons, hb, ih]

/-- R108: a whole frame in LISTEN is received. -/
theorem arrive_listening {s : State} (h : s.Listening) (same : Reception → Bool) (deliver : State → State) :
    s.arrive same deliver = deliver s := by
  unfold State.arrive
  rw [if_pos h.1, h.2]

/-- Whether a byte is a marker. -/
theorem isMarker_iff (b : LineByte) (m : Byte) : LineByte.isMarker b m = true ↔ b = ⟨m, false⟩ := by
  rcases b with ⟨v, f⟩
  cases f <;> simp [LineByte.isMarker]

/-- The answer being sent. -/
theorem answerSending_eq {s : State} {wire : List Byte} {rate : BitVec 2} {echoed : Bool} {a : InFlight} (h0 : s.resetHeld = false)
    (h1 : s.line.state = .sending .answer wire rate echoed) (h2 : s.line.answer = some a) : s.answerSending = some a := by
  unfold State.answerSending
  rw [if_neg (by simp [h0]), h1]
  exact h2

/-! ## Polls -/

/-- R24: a POLL inside the answer range. -/
theorem pollTarget_some {s : State} {b : Byte} {n : NodeNo} (h : s.TakesPolls b) (hn : b.toNat = nodeAddress n) :
    s.pollTarget b = some n := by
  unfold State.pollTarget
  rw [if_pos (by exact h)]
  exact nodeNo?_eq_some.2 hn

theorem pollTarget_none {s : State} {b : Byte} (h : ¬ s.TakesPolls b) : s.pollTarget b = none := by
  unfold State.pollTarget
  rw [if_neg (by exact h)]

theorem noteNode_none (t : Option TakeLatch) (n : NodeNo) : t.map (·.noteNode n NodeReasons.none) = t := by
  cases t with
  | none => rfl
  | some x => cases x <;> simp [TakeLatch.noteNode, union_none_node]

theorem noteRecord_none (t : Option TakeLatch) (i : SlotNo) : t.map (·.noteRecord i RecordReasons.none) = t := by
  cases t with
  | none => rfl
  | some x => cases x <;> simp [TakeLatch.noteRecord, union_none_record]

theorem nodeReasons_empty {r : NodeReasons} (h : r.isEmpty = true) : r = .none := by
  cases r
  simp_all [NodeReasons.isEmpty, NodeReasons.none]

theorem recordReasons_empty {r : RecordReasons} (h : r.isEmpty = true) : r = .none := by
  cases r
  simp_all [RecordReasons.isEmpty, RecordReasons.none]

/-- R28, R29: the node gate. -/
theorem passGate_eq (s : State) (n : NodeNo) (status : Option Byte) : s.passGate n status = s.afterGate n status := by
  have hsc : (s.node n).statusChanges status = (status.isSome && (s.node n).status != status) := by
    unfold NodeEntry.statusChanges
    cases status <;> simp
  have hr : (s.node n).gateReasons status =
      { NodeReasons.none with
        bound := (s.node n).state == .assigned
        returned := (s.node n).state == .silent
        status := status.isSome && (s.node n).status != status } := by
    unfold NodeEntry.gateReasons
    rw [hsc]
  unfold State.passGate State.afterGate
  dsimp only
  rw [← hr]
  cases he : ((s.node n).gateReasons status).isEmpty with
  | true =>
    rw [raiseNode_empty _ _ he, nodeReasons_empty he, noteNode_none, union_none_node]
    simp [State.setNode, NodeEntry.gated, NodeReasons.isEmpty]
  | false =>
    rw [raiseNode_eq _ _ he]
    simp [State.setNode, NodeEntry.gated, State.node]

/-! ## Announces -/

theorem announces_iff (x : NodeState) : x.announces = true ↔ x ≠ .free ∧ x ≠ .retiring := by
  cases x <;> simp [NodeState.announces]

/-- R56: the entry an announce matches. -/
theorem announced_some {s : State} (hl : s.IdentityLaw) {m : NodeNo} {v : Identity} (h1 : (s.node m).state ≠ .free)
    (h3 : (s.node m).state ≠ .retiring) (h2 : (s.node m).identity = some v) : s.announced v = some m := by
  unfold State.announced
  cases h : (List.finRange 239).find? (fun n => (s.node n).state.announces && (s.node n).identity == some v) with
  | none =>
    have := List.find?_eq_none.1 h m (List.mem_finRange m)
    simp [h2] at this
    rw [(announces_iff _).2 ⟨h1, h3⟩] at this
    cases this
  | some k =>
    have := List.find?_some h
    simp at this
    congr 1
    exact hl k m ((announces_iff _).1 this.1).1 h1 (by simp [this.2]) (this.2.trans h2.symm)

theorem announced_none {s : State} {v : Identity}
    (h : ∀ n : NodeNo, (s.node n).state ≠ .free → (s.node n).state ≠ .retiring → (s.node n).identity ≠ some v) :
    s.announced v = none := by
  unfold State.announced
  rw [List.find?_eq_none]
  intro n _
  simp
  intro hc
  have := (announces_iff _).1 hc
  exact h n this.1 this.2

/-- R55: what the pattern at the first byte is. -/
theorem patternHere_some {bytes : List Byte} {v : Identity} :
    patternHere bytes = some v ↔
      ∃ copy : List Byte, copy.length = 8
        ∧ (∃ rest, bytes = [0x96, 0x96, 0x96] ++ copy ++ copy ++ copy ++ copy ++ rest)
        ∧ join64 copy ≠ 0 ∧ join64 copy ≠ BitVec.allOnes 64 ∧ v = join64 copy := by
  unfold patternHere
  constructor
  · intro h
    split at h
    · cases h
    · rename_i hl
      dsimp only at h
      split at h
      · rename_i hc
        obtain ⟨h1, h2, h3, h4, h5⟩ := hc
        injection h with h
        refine ⟨(bytes.drop 3).take 8, ?_, ⟨bytes.drop 35, ?_⟩, ?_, ?_, h.symm⟩
        · simp
          omega
        · conv_lhs =>
            rw [← List.take_append_drop 3 bytes, h1, ← List.take_append_drop 8 (bytes.drop 3), List.drop_drop,
              ← List.take_append_drop 8 (bytes.drop (3 + 8)), h2, List.drop_drop,
              ← List.take_append_drop 8 (bytes.drop (3 + 8 + 8)), h3, List.drop_drop,
              ← List.take_append_drop 8 (bytes.drop (3 + 8 + 8 + 8)), h4, List.drop_drop]
          simp
        · simp [validIdentity] at h5
          exact h5.1
        · simp [validIdentity] at h5
          exact h5.2
      · cases h
  · rintro ⟨copy, h1, ⟨rest, rfl⟩, h2, h3, rfl⟩
    match copy, h1 with
    | [a, b, c, d, e, f, g, h], _ => simp [validIdentity]; exact ⟨h2, h3⟩

end Sys2Proof.Laws
end

