-- ==== Sys2Proof/Laws/Cycle.lean ====
section
/-! SUPPORT. What a cycle start does to the node table and to the load unit, and what it leaves alone; the mode and RUN writes. -/

namespace Sys2Proof.Laws

open Sys2Proof.Machine

/-! ## The node table -/

theorem offerEnds_eq {e : NodeEntry} (h : e.Lawful) :
    e.offerEnds = (e.state == .offered && e.offerRemaining == some 1) := by
  unfold NodeEntry.offerEnds
  obtain ⟨_, h2, _⟩ := h
  cases ho : e.offerRemaining with
  | none => simp
  | some k =>
    have := h2 k (by simp [ho])
    have e : decide (k ≤ 1) = (k == 1) := by
      rw [Bool.eq_iff_iff]
      simp
      omega
    dsimp only
    rw [e]
    rfl

theorem confirmEnds_eq {e : NodeEntry} (h : e.Lawful) :
    e.confirmEnds = (e.state == .assigned && e.confirmRemaining == 1) := by
  unfold NodeEntry.confirmEnds
  obtain ⟨_, _, h3⟩ := h
  cases hs : e.state <;> rw [hs] at h3 <;> first | rfl | skip
  dsimp only at h3
  have e : decide (e.confirmRemaining ≤ 1) = (e.confirmRemaining == 1) := by
    rw [Bool.eq_iff_iff]
    simp
    omega
  rw [e]

theorem cycleReasons_eq {e : NodeEntry} (h : e.Lawful) : e.cycleReasons = e.raisedAtCycle := by
  unfold NodeEntry.cycleReasons NodeEntry.raisedAtCycle
  rw [offerEnds_eq h, confirmEnds_eq h]
  rfl

theorem raisedAtCycle_uncounted {e : NodeEntry} (h : e.state = .free ∨ e.state = .retiring) :
    e.reasons.union e.raisedAtCycle = e.reasons := by
  unfold NodeEntry.raisedAtCycle NodeReasons.union NodeReasons.none
  rcases h with h | h <;> rw [h] <;> simp [show ∀ a b : NodeState, (a == b) = decide (a = b) from fun _ _ => rfl]

/-- R62 to R65: a lawful entry at a cycle start. -/
theorem entry_cycleStart_eq {e : NodeEntry} (h : e.Lawful) : e.cycleStart = e.afterCycle := by
  have ho := offerEnds_eq h
  have hc := confirmEnds_eq h
  unfold NodeEntry.cycleStart NodeEntry.afterCycle
  rw [cycleReasons_eq h]
  unfold NodeEntry.counted
  cases hs : e.state <;> rw [hs] at ho hc <;> dsimp only
  · rw [raisedAtCycle_uncounted (.inl hs)]
  · rw [ho]
    simp
  · rw [hc]
    simp
  · have h2 : e.raisedAtCycle.silent = e.lapses := rfl
    rw [h2]
    rfl
  · rfl
  · rw [raisedAtCycle_uncounted (.inr hs)]

/-! ## The load unit -/

/-- R84: the mask of the one load. -/
theorem unionMask_bit (es : List ScheduleEntry) (b : Nat) :
    (unionMask es).getLsbD b = true ↔ ∃ e ∈ es, e.mask.getLsbD b = true := by
  induction es with
  | nil => simp [unionMask]
  | cons e es ih =>
    have : unionMask (e :: es) = e.mask ||| unionMask es := rfl
    rw [this, BitVec.getLsbD_or, Bool.or_eq_true, ih]
    simp

/-- R73, R74: a load. -/
theorem load_eq (s : State) (mask : Byte) : s.load mask = s.afterLoad mask := rfl

/-- Firing changes the directory, the schedule, the last-fired record and the events alone. -/
theorem fireSchedule_frame (s : State) (old new : Word16) :
    let t := s.fireSchedule old new
    t.line = s.line ∧ t.cycle = s.cycle ∧ t.nodes = s.nodes ∧ t.attention = s.attention ∧ t.take = s.take
      ∧ t.mask = s.mask ∧ t.stray = s.stray ∧ t.command = s.command ∧ t.port = s.port ∧ t.clearing = s.clearing
      ∧ t.resetHeld = s.resetHeld ∧ t.pending = s.pending := by
  unfold State.fireSchedule
  dsimp only
  split <;> exact ⟨rfl, rfl, rfl, rfl, rfl, rfl, rfl, rfl, rfl, rfl, rfl, rfl⟩

/-- R91: a cycle start takes the counter to its number; the line is left alone. -/
theorem cycleStart_line_cycle (s : State) (number : Word16) :
    (s.cycleStart number).line = s.line ∧ (s.cycleStart number).cycle = { s.cycle with counter := number } := by
  have := fireSchedule_frame ((s.setCycle { s.cycle with counter := number }).countNodes) s.cycle.counter number
  exact ⟨this.1, this.2.1⟩

/-! ## The answer range -/

/-- R117: every entry that is not FREE lies in the range. -/
theorem entriesWithin_iff (s : State) (low high : Byte) :
    s.entriesWithin low high = true ↔
      ∀ n : NodeNo, (s.node n).state ≠ .free → low.toNat ≤ nodeAddress n ∧ nodeAddress n ≤ high.toNat := by
  unfold State.entriesWithin
  simp only [List.all_eq_true, List.mem_finRange, forall_true_left, Bool.or_eq_true, beq_iff_eq, Bool.and_eq_true,
    decide_eq_true_eq]
  constructor
  · intro h n hn
    have := h n
    tauto
  · intro h n
    have := h n
    tauto

end Sys2Proof.Laws
end

