-- ==== Sys2Proof/Tests/Slice0.lean ====
section
/-! SUPPORT. Own tests: the refusals of the well-formedness check, one or two steps of each operation on small states, and for each statement with hypotheses a state and operands that meet them. -/

namespace Sys2Proof.Tests

open Sys2Proof.Machine Sys2Proof.Laws

set_option Elab.async false

/-! ## Helpers -/

/-- The state an operation leads to. -/
def after (i : Instr) (s : State) : State :=
  match exec i s with
  | .next t => t
  | .fault _ => s
  | .refused _ => s

/-- The part after its start-up clear. -/
def ready : State := { State.reset with clearing := false }

/-- The result of the command that an operation ran. -/
def resultOf (i : Instr) (s : State) : CommandResult := (after i s).command.result

/-- A state with a command argument, byte 0 first. -/
def withArg (b0 b1 b2 : Byte) (s : State) : State :=
  { s with command := { s.command with argument := (0 : Byte) ++ b2 ++ b1 ++ b0 } }

/-- A state with an argument part of the window. -/
def withWindow (w : WindowArguments) (s : State) : State := { s with command := { s.command with window := w } }

def noWindow : WindowArguments := ⟨0, 0, 0, 0, 0, 0, 0⟩

/-- Address 17, channel 2. -/
def key17 : Key := ⟨16, 2⟩

/-- A record of that key in a slot of generation 1, LIVE 800 with staged level 1200, sent. -/
def record17 : Record :=
  { node := 16, channel := 2, generation := 1, group := 4, reportPermitted := true, liveLevel := some 800,
    liveSeq := true, sent := true, delivered := false, stagedLevel := some 1200, halted := false,
    reportValue := none, reportSeq := false, lastPollCycle := none, reasons := .none }

/-- A BOUND entry with one record. -/
def bound17 : NodeEntry :=
  { NodeEntry.reset with state := .bound, identity := some 5, recordCount := 1 }

/-- A state whose slot 5 holds `r` and whose entry of address 17 is `e`. -/
def holding (r : Record) (e : NodeEntry) : State :=
  { ready with
    directory :=
      { slots := (Vector.replicate 384 ⟨0, none⟩).set 5 ⟨r.generation, some r⟩
        index := [⟨r.key, 5⟩]
        occupancy := 1 }
    nodes := (Vector.replicate 239 NodeEntry.reset).set 16 e }

/-- The usual state of the tests: one record, one BOUND node. -/
def one : State := holding record17 bound17

/-- A state whose entry of address 17 is `e`, with no record. -/
def noded (e : NodeEntry) : State := { ready with nodes := (Vector.replicate 239 NodeEntry.reset).set 16 e }

/-- A source that runs, counter 1000. -/
def running (s : State) : State :=
  { s with cycle := ⟨.source, true, 20, 1000, .running, some 20000, none⟩ }

/-- A follower in a cycle state, counter 1000. -/
def following (c : CycleState) (deadline : Option Nat) (s : State) : State :=
  { s with cycle := ⟨.follower, true, 20, 1000, c, none, deadline⟩ }

/-- A state with a line controller in a state, with the answer, the beacon and the held request given. -/
def lined (st : LineState) (answer : Option InFlight) (beacon held : Option Word16) (s : State) : State :=
  { s with line := { s.line with state := st, answer := answer, beacon := beacon, held := held } }

/-- A POLL of address 17, channel 2. -/
def poll17 (echo : Bool) (report : Option Word16) (status : Option Byte) : PollFrame :=
  ⟨17, 2, echo, true, report, status⟩

/-- An ANNOUNCE body that repeats identity 5 from its third byte. -/
def body5 : List Byte :=
  let copy := bytes64 5
  [1, 2, 0x96, 0x96, 0x96] ++ copy ++ copy ++ copy ++ copy

/-! ## Well-formedness -/

theorem test_wf_badCommand : Instr.wellFormed (.badCommand 0x3F) = false := by decide

theorem test_wf_announce : Instr.wellFormed (.announce (List.replicate 11 0)) = false
    ∧ Instr.wellFormed (.announce (List.replicate 65 0)) = false := by decide

theorem test_wf_interfaceControl : Instr.wellFormed (.interfaceControlWrite 0xC0) = false := by decide

theorem test_wf_softReset : Instr.wellFormed (.softResetRequest 0x40) = false := by decide

theorem test_wf_registerWrite : Instr.wellFormed (.registerWrite 0x0035 [0, 0, 0, 0] 0) = false
    ∧ Instr.wellFormed (.registerWrite 0x0034 [0, 0, 0] 0) = false := by decide

theorem test_wf_csnRise : Instr.wellFormed (.csnRise (List.replicate 8 true)) = false := by decide

theorem test_wf_accepts : Instr.wellFormed (.registerWrite 0x0034 [1, 2, 3, 4] 0) = true
    ∧ Instr.wellFormed (.announce body5) = true ∧ Instr.wellFormed (.badCommand 0x07) = true := by decide

/-! ## Directory commands -/

theorem test_lookup : resultOf .lookup (withArg 17 2 0 one) = ⟨.done, 5, 1, 0⟩
    ∧ resultOf .lookup (withArg 17 3 0 one) = ⟨.notFound, 0, 0, 0⟩ := by decide +kernel

theorem test_readSlot : resultOf .readSlot (withArg 3 0 0 one) = ⟨.emptySlot, 3, 0, 0⟩
    ∧ resultOf .readSlot (withArg 0x80 1 0 one) = ⟨.badArgument, 0, 0, 0⟩ := by decide +kernel

theorem test_insert :
    resultOf .insert (withArg 17 3 0 (withWindow { noWindow with first := 1200, select := 1, group := 2, permit := 1 } one))
      = ⟨.done, 0, 1, 0⟩
    ∧ resultOf .insert (withArg 17 2 0 one) = ⟨.keyInUse, 5, 1, 0⟩ := by decide +kernel

theorem test_amend_releaseAndSetLive :
    (((after .amend (withArg 5 0 1 (withWindow { noWindow with select := 0x44, second := 650 }
        (holding { record17 with halted := true, delivered := true } bound17)))).slot 5).record).map
      (fun r => (r.liveLevel, r.liveSeq, r.sent, r.delivered, r.halted)) = some (some 650, false, false, false, false) := by
  decide +kernel

theorem test_retire : resultOf .retire (withArg 5 0 1 one) = ⟨.done, 5, 1, 0⟩
    ∧ (after .retire (withArg 5 0 1 one)).directory.occupancy = 0
    ∧ resultOf .retire (withArg 5 0 2 one) = ⟨.stale, 5, 1, 0⟩ := by decide +kernel

theorem test_find : (after .find (withArg 4 0 0 (withWindow { noWindow with permit := 7 } one))).command.state = .finding 0
    ∧ resultOf .find (withArg 4 0 0 one) = ⟨.badArgument, 0, 0, 0⟩ := by decide +kernel

/-- `one` with a FIND of LIVE records whose scan stands at a slot, three slots visited. -/
def finding (i : SlotNo) : State :=
  { one with command := { one.command with
      code := 0x06, state := .finding 3, scan := i, window := { noWindow with permit := 2 } } }

theorem test_findVisit : resultOf .findVisit (finding 5) = ⟨.done, 5, 1, 4⟩
    ∧ (after .findVisit (finding 4)).command.scan = 5
    ∧ resultOf .findVisit (finding 383) = ⟨.none, 0, 0, 4⟩ := by decide +kernel

/-! ## Node commands -/

theorem test_readNode : resultOf .readNode (withArg 17 0 0 one) = ⟨.done, 17, 0, 0⟩
    ∧ resultOf .readNode (withArg 18 0 0 one) = ⟨.noNode, 18, 0, 0⟩ := by decide +kernel

theorem test_offer : resultOf .offer (withArg 18 0 0 (withWindow { noWindow with identity := 9, first := 3 } one))
      = ⟨.done, 18, 0, 0⟩
    ∧ resultOf .offer (withArg 18 0 0 (withWindow { noWindow with identity := 5 } one)) = ⟨.identityInUse, 17, 0, 0⟩ := by
  decide +kernel

theorem test_retireNode : (after .retireNode (withArg 17 0 0 one)).command.state = .cascading 16 0
    ∧ resultOf .retireNode (withArg 17 0 0 (noded { bound17 with recordCount := 0 })) = ⟨.done, 17, 0, 0⟩ := by
  decide +kernel

/-- `one` with a cascade of node 17 whose scan stands at a slot. -/
def cascading (i : SlotNo) (count : Nat) : State :=
  let s := holding record17 { bound17 with state := .retiring, recordCount := count }
  { s with command := { s.command with code := 0x13, state := .cascading 16 0, scan := i } }

theorem test_cascadeVisit : resultOf .cascadeVisit (cascading 5 1) = ⟨.done, 17, 0, 1⟩
    ∧ (after .cascadeVisit (cascading 5 1)).node 16 = NodeEntry.reset
    ∧ (after .cascadeVisit (cascading 4 1)).command.scan = 5 := by decide +kernel

/-! ## Load commands and ABORT -/

theorem test_load : resultOf .load (withArg 0x10 0 0 one) = ⟨.done, 0, 0, 1⟩
    ∧ resultOf .load (withArg 0 0 0 one) = ⟨.badArgument, 0, 0, 0⟩ := by decide +kernel

theorem test_schedule : resultOf .schedule (withArg 5 0 1 one) = ⟨.done, 0, 0, 1⟩
    ∧ resultOf .schedule (withArg 0 0 1 one) = ⟨.pastDue, 0, 0, 0⟩ := by decide +kernel

theorem test_unschedule :
    (after .unschedule (withArg 5 0 0 { one with schedule := [⟨4, 1⟩, ⟨5, 2⟩] })).schedule = [⟨4, 1⟩]
    ∧ resultOf .unschedule (withArg 5 0 0 one) = ⟨.notFound, 0, 0, 0⟩ := by decide +kernel

theorem test_abort : resultOf .abort (finding 7) = ⟨.aborted, 7, 0, 3⟩ ∧ resultOf .abort one = ⟨.idle, 0, 0, 0⟩ := by
  decide +kernel

theorem test_badCommand : resultOf (.badCommand 0x07) one = ⟨.badCommand, 0, 0, 0⟩
    ∧ (after (.badCommand 0x07) (finding 7)).port.errors.commandRefused = true := by decide +kernel

/-! ## The line -/

theorem test_poll : (after (.poll (poll17 true none none)) (running one)).line.answer
      = some ⟨.level key17 5 1 true 800 false, false⟩
    ∧ (after (.poll (poll17 true none none)) (running one)).attention = [.record 5] := by decide +kernel

theorem test_announce : (after (.announce body5) (running (noded { bound17 with state := .offered, recordCount := 0 }))).line.answer
      = some ⟨.assign 16 5, false⟩
    ∧ (after (.announce body5) one).events.wake = true := by decide +kernel

theorem test_beacon : (after (.beacon 1001) (following .locked (some 22500) one)).cycle.counter = 1001
    ∧ (after (.beacon 7) (running one)).cycle.state = .clashed := by decide +kernel

theorem test_ignoredAnswerKind : (after (.ignoredAnswerKind .level) one).line = one.line := by decide +kernel

theorem test_damagedFrame : (after (.damagedFrame .crcFailed) one).line.damaged = 1
    ∧ (after (.damagedFrame .cutShort) one).line.state = .receiving ⟨[], false, none, 1⟩ := by decide +kernel

/-- RECEIVING a frame of which two bytes have arrived. -/
def receiving : State := lined (.receiving ⟨[0x21, 17], false, none, 1⟩) none none none one

theorem test_lineSilence : (after .lineSilence receiving).line.state = .listen
    ∧ (after .lineSilence receiving).line.damaged = 1 := by decide +kernel

/-- An answer in flight, in GAP and in SENDING. -/
def gapped (a : Answer) : State := lined (.gap .answer 3 1) (some ⟨a, false⟩) none none one

def sending (a : Answer) (voided : Bool) : State := lined (.sending .answer a.wire 1 false) (some ⟨a, voided⟩) none none one

theorem test_collision : (after .collision (gapped (.wait key17 5 1 false))).line.damaged = 1
    ∧ (after .collision (gapped (.wait key17 5 1 false))).line.state = .gap .answer 3 1 := by decide +kernel

/-- R108: after an escape the POLL of address 17 cannot be the frame in reception, which its start marker cuts. -/
theorem test_poll_cutsAnEscape :
    (after (.poll (poll17 true none none)) (lined (.receiving ⟨[0x21], true, none, 1⟩) none none none (running one))).line.damaged = 1
    ∧ (after (.poll (poll17 true none none)) (lined (.receiving ⟨[0x21], false, none, 1⟩) none none none (running one))).line.damaged
      = 0 := by decide +kernel

/-- R113: the part's own start marker read back is no collision; another one is. -/
theorem test_startMarker_readBack :
    (after (.startMarker []) (sending (.wait key17 5 1 false) false)).line.damaged = 0
    ∧ (after (.startMarker []) (after (.startMarker []) (sending (.wait key17 5 1 false) false))).line.damaged = 1 := by
  decide +kernel

/-- The bytes of the frame being sent. -/
def onTheLine (s : State) : List Byte :=
  match s.line.state with
  | .sending _ wire _ _ => wire
  | _ => []

/-- spec/06, escapes and damaged frames: level 0xFAF9 of node 17, channel 4. -/
theorem test_answerGapExpiry :
    (onTheLine (after .answerGapExpiry (gapped (.level ⟨16, 4⟩ 5 1 false 0xFAF9 false)))).take 8
      = [0xF9, 0x61, 0x11, 0x04, 0xFB, 0xE9, 0xFB, 0xEA] := by decide +kernel

theorem test_levelSendCompletion :
    (((after .levelSendCompletion (sending (.level key17 5 1 true 800 false) false)).slot 5).record).map (·.sent) = some true
    ∧ (after .levelSendCompletion (sending (.level key17 5 1 true 800 false) false)).line.state = .listen := by
  decide +kernel

theorem test_answerSendCompletion :
    (after .answerSendCompletion (sending (.refuse key17 .noNode) false)).line.answer = none := by decide +kernel

theorem test_assignSendCompletion :
    ((after .assignSendCompletion (sending (.assign 16 5) false)).node 16).confirmRemaining = 8 := by decide +kernel

theorem test_beaconSendCompletion :
    (after .beaconSendCompletion (lined (.sending .beacon (beaconWire 7) 1 true) none (some 7) (some 8) one)).line.state
      = .gap .beacon 3 1 := by decide +kernel

/-- A whole POLL of node 17 without report or status, byte by byte (R106 check: the CRC of the content). -/
theorem test_startMarker :
    (after (.startMarker (onLine (wireFrame (withCrc [0x21, 17, 0x12])).tail)) (running one)).line.answer
      = some ⟨.level key17 5 1 true 800 false, false⟩
    ∧ (after (.startMarker (onLine [0x21, 0xFB, 0x41, 0xFA])) one).line.damaged = 1 := by decide +kernel

/-- The known check values of the two CRC polynomials over the bytes "123456789", each from a seed of all ones. -/
theorem test_crcs : crc16 [0x31, 0x32, 0x33, 0x34, 0x35, 0x36, 0x37, 0x38, 0x39] = 0x29B1
    ∧ crc8 0xFF [0x31, 0x32, 0x33, 0x34, 0x35, 0x36, 0x37, 0x38, 0x39] = 0xF7 := by decide +kernel

/-! ## The cycle unit and the settings -/

theorem test_cycleTimerExpiry : (after .cycleTimerExpiry (running one)).cycle.counter = 1001
    ∧ (after .cycleTimerExpiry (running one)).line.state = .gap .beacon 3 1 := by decide +kernel

theorem test_beaconDeadlineExpiry : (after .beaconDeadlineExpiry (following .locked (some 22500) one)).cycle
      = ⟨.follower, true, 20, 1001, .coasting, none, some 22500⟩
    ∧ (after .beaconDeadlineExpiry (following .coasting (some 22500) one)).cycle
      = ⟨.follower, true, 20, 1000, .seeking, none, none⟩ := by decide +kernel

theorem test_runSet : (after .runSetSource one).cycle = ⟨.source, true, 20, 0, .running, some 20000, none⟩
    ∧ (after .runSetFollower one).cycle = ⟨.follower, true, 20, 0, .seeking, none, none⟩ := by decide +kernel

theorem test_runClear : (after .runClearSource (running one)).cycle = ⟨.source, false, 20, 1000, .stopped, none, none⟩
    ∧ (after .runClearFollower (following .locked (some 22500) one)).cycle
      = ⟨.follower, false, 20, 1000, .stopped, none, none⟩ := by decide +kernel

theorem test_cycleControlWrite : (after (.cycleControlWrite 0xFE) one).cycle.mode = .follower
    ∧ (after (.cycleControlWrite 0x03) (running one)).port.errors.settingRefused = true := by decide +kernel

theorem test_settings : (after (.cyclePeriodWrite 200) one).cycle.period = 200
    ∧ (after (.lineRateWrite 3) one).line.rate = 3 ∧ (after (.answerGapWrite 15) one).line.gap = 15
    ∧ (after (.answerRangeWrite 17 80) one).line.rangeHigh = 80 := by decide +kernel

theorem test_settings_refused : (after (.cyclePeriodWrite 1) one).port.errors.settingRefused = true
    ∧ (after (.lineRateWrite 0) (running one)).port.errors.settingRefused = true
    ∧ (after (.answerGapWrite 1) one).port.errors.settingRefused = true
    ∧ (after (.answerRangeWrite 18 80) one).port.errors.settingRefused = true := by decide +kernel

/-! ## Events and the shared interface block -/

theorem test_eventWrites :
    (after (.eventRegisterWrite 0x0101) { one with events := ⟨true, true, false, false, false, false, true⟩ }).events
      = ⟨false, true, false, false, false, false, false⟩
    ∧ (after (.eventMaskWrite 0xFE01) one).mask = 0x001 := by decide +kernel

theorem test_interfaceErrorFlagsWrite :
    (after (.interfaceErrorFlagsWrite 0x0001)
        { one with port := { one.port with errors := ⟨true, true, false, false, false, false, false, false, false⟩ } }).port.errors
      = ⟨false, true, false, false, false, false, false, false, false⟩ := by decide +kernel

theorem test_interfaceControlWrite : (after (.interfaceControlWrite 0x4F) one).port.config
      = ⟨.singleField, .descending, true, true⟩
    ∧ (after (.softResetRequest 0xC2) one).port.softReset = true := by decide +kernel

theorem test_loopAndPair : (after (.loopLengthWrite 4) one).port.loopLength = 4
    ∧ (after (.crcEnablePairWrite 1) one).port.crcOn = true
    ∧ (after (.crcEnablePairWrite 3) one).port.crcOn = false := by decide +kernel

theorem test_registerWrite : (after (.registerWrite 0x005A [0x34, 0x12] 0) one).command.window.second = 0x1234
    ∧ (after (.registerWrite 0x0006 [0, 0] 0) one).port.errors.readOnlyWrite = true := by decide +kernel

/-- R8, R145: a write that enters an image of the mapped directory inside and is carried to its last byte. -/
theorem test_registerWrite_middle :
    (after (.registerWrite 0x0402 (List.replicate 14 0) 0) one).port.errors
      = ⟨false, true, true, false, false, false, false, false, false⟩
    ∧ (after (.registerWrite 0x0402 (List.replicate 13 0) 0) one).port.errors
      = ⟨false, true, false, false, false, false, false, false, false⟩ := by decide +kernel

/-- R147: the term of a loop length ends with the access of a row that is a frame of its own. -/
theorem test_loopTermEnds :
    (after (.cyclePeriodWrite 30) { one with port := { one.port with loopLength := 4 } }).port.loopLength = 0
    ∧ (after (.cyclePeriodWrite 30) { one with port := { one.port with loopLength := 4 } }).cycle.period = 30 := by
  decide +kernel

/-! ## Reads that act -/

/-- One record subject on the list. -/
def attending : State :=
  { holding { record17 with reasons := ⟨true, false, false⟩ } bound17 with attention := [.record 5] }

theorem test_takeFieldLatch : (after .takeFieldLatch attending).take = some (.record 5 1 ⟨true, false, false⟩ .none false)
    ∧ (after .takeFieldLatch attending).port.sdo = [.highZ, .highZ, .byte 1] := by decide +kernel

theorem test_takeFieldCompletion :
    (after .takeFieldCompletion (after .takeFieldLatch attending)).attention = []
    ∧ (after .takeFieldCompletion (after .takeFieldLatch attending)).port.sdo
      = [.highZ, .highZ, .byte 1, .byte 5, .byte 1, .byte 1]
    ∧ (after .takeFieldCompletion (after .takeFieldLatch attending)).port.phase = .idle := by
  decide +kernel

/-- R155: during the start-up clear a read sends 0 and sets NOT READY. -/
theorem test_takeFieldInTheClear :
    (after .takeFieldCompletion (after .takeFieldLatch State.reset)).port.sdo = [.highZ, .highZ, .byte 0, .byte 0, .byte 0, .byte 0]
    ∧ (after .takeFieldCompletion (after .takeFieldLatch State.reset)).port.errors.notReady = true := by decide +kernel

/-- Seven damaged frames counted. -/
def damaged7 : State := { one with line := { one.line with damaged := 7 } }

theorem test_damagedCountRead :
    (after .damagedCountReadCompletion (after (.damagedFrame .crcFailed) (after .damagedCountReadLatch damaged7))).line.damaged
      = 1
    ∧ (after .damagedCountReadLatch damaged7).port.sdo = [.highZ, .highZ, .byte 7] := by decide +kernel

/-! ## Frames of the host serial port, resets -/

/-- Chip code 0, a read of the part number; and a read that addresses another part. -/
theorem test_instructionPhase :
    (after (.instructionPhase [0x80, 0x06, 0, 0]) one).port.sdo = [.highZ, .highZ, .byte 0x84, .byte 0x03]
    ∧ (after (.instructionPhase [0xA0, 0x06, 0, 0]) one).port.sdo = [.highZ, .highZ, .highZ, .highZ] := by decide +kernel

/-- A state in single-field mode with status send on. -/
def singleField (s : State) : State :=
  { s with port := { s.port with config := { s.port.config with mode := .singleField, statusSend := true } } }

/-- R148, R153: a cycle start between two accesses of a frame shows in the status of the second. -/
theorem test_statusOfTheNextPhase :
    (after (.instructionPhase [0x80, 0x03, 0]) (singleField (running one))).port.phase = .between
    ∧ (after (.instructionPhase [0x80, 0x03]) (after .cycleTimerExpiry
        (after (.instructionPhase [0x80, 0x03, 0]) (singleField (running one))))).port.sdo.getLast? = some (.byte 0xE9) := by
  decide +kernel

/-- R155: an access whose instruction phase begins after the start-up clear is none of the clear. -/
theorem test_clearEndsBetweenAccesses :
    (after (.instructionPhase [0x00, 0x21, 30]) (after .startUpClearCompletion
      (after (.instructionPhase [0x80, 0x03, 0]) (singleField State.reset)))).cycle.period = 30 := by
  decide +kernel

/-- spec/09: a frame that ends inside a field, and one that ends off a byte boundary. -/
theorem test_csnRise : (after (.csnRise []) (after (.instructionPhase [0x80, 0x06, 0]) one)).port.errors.partialField = true
    ∧ (after (.csnRise [true]) (after (.instructionPhase [0x80, 0x06, 0, 0]) one)).port.errors.bitCount = true := by
  decide +kernel

theorem test_powerOnReset : (after (.powerOnReset 2) one).port.chipCode = 2
    ∧ (after (.powerOnReset 2) one).directory.occupancy = 0 := by decide +kernel

theorem test_resetPin : (after .resetPinAssert one).resetHeld = true
    ∧ (after (.resetPinRelease 1) (after .resetPinAssert one)).clearing = true := by decide +kernel

theorem test_startUpClearCompletion : (after .startUpClearCompletion State.reset).events.resetNoted = true
    ∧ (after .startUpClearCompletion State.reset).clearing = false := by decide +kernel

/-! ## The laws on the small states -/

theorem slot_holding (r : Record) (e : NodeEntry) (i : SlotNo) :
    (holding r e).slot i = if i = 5 then ⟨r.generation, some r⟩ else ⟨0, none⟩ := by
  unfold State.slot holding
  by_cases h : i = 5
  · subst h
    simp
  · have : (5 : Nat) ≠ i.val := fun c => h (Fin.ext c.symm)
    simp [h, this]

theorem node_holding (r : Record) (e : NodeEntry) (n : NodeNo) :
    (holding r e).node n = if n = 16 then e else NodeEntry.reset := by
  unfold State.node holding
  by_cases h : n = 16
  · subst h
    simp
  · have : (16 : Nat) ≠ n.val := fun c => h (Fin.ext c.symm)
    simp [h, this]

theorem node_noded (e : NodeEntry) (n : NodeNo) : (noded e).node n = if n = 16 then e else NodeEntry.reset :=
  node_holding record17 e n

theorem indexLaw_holding (r : Record) (e : NodeEntry) : (holding r e).IndexLaw := by
  refine ⟨?_, ?_, ?_⟩
  · intro i x hx
    rw [slot_holding] at hx ⊢
    split at hx
    · rename_i h
      have : x = r := by simpa using hx.symm
      subst this
      subst h
      simp [holding]
    · cases hx
  · intro x hx
    have : x = ⟨r.key, 5⟩ := by simpa [holding] using hx
    subst this
    simp [slot_holding]
  · simp [holding]

theorem identityLaw_noded (e : NodeEntry) : (noded e).IdentityLaw := by
  intro n m hn hm _ _
  rw [node_noded] at hn hm
  split at hn
  · split at hm
    · rename_i h1 h2
      rw [h1, h2]
    · exact absurd rfl hm
  · exact absurd rfl hn

theorem identityLaw_holding (r : Record) (e : NodeEntry) : (holding r e).IdentityLaw := identityLaw_noded e

theorem lawful_reset : NodeEntry.reset.Lawful := ⟨by decide, (fun _ h => by cases h), rfl⟩

theorem nodeLaw_holding (r : Record) {e : NodeEntry} (h : e.Lawful) : (holding r e).NodeLaw := by
  intro n
  rw [node_holding]
  split
  · exact h
  · exact lawful_reset

theorem lawful_bound17 : bound17.Lawful := ⟨by decide, (fun _ h => by cases h), rfl, rfl⟩

theorem keyAbsent_holding {r : Record} {e : NodeEntry} {k : Key} (h : r.key ≠ k) : (holding r e).KeyAbsent k := by
  intro i x hx
  rw [slot_holding] at hx
  split at hx
  · have : x = r := by simpa using hx.symm
    subst this
    exact h
  · cases hx

/-- The record of slot `i` of a full directory: 16 channels of each of 24 nodes. -/
def fullRecord (i : SlotNo) : Record :=
  { record17 with node := ⟨i.val / 16, by omega⟩, channel := BitVec.ofNat 4 (i.val % 16) }

/-- A full directory; node 31 is BOUND and has no record. -/
def full : State :=
  { ready with
    directory :=
      { slots := Vector.ofFn (fun i => ⟨1, some (fullRecord i)⟩)
        index := (List.finRange 384).map (fun i => ⟨(fullRecord i).key, i⟩)
        occupancy := 384 }
    nodes := (Vector.replicate 239 NodeEntry.reset).set 30 { bound17 with recordCount := 0 } }

theorem slot_full (i : SlotNo) : full.slot i = ⟨1, some (fullRecord i)⟩ := by simp [State.slot, full]

theorem fullRecord_key {i j : SlotNo} (h : (fullRecord i).key = (fullRecord j).key) : i = j := by
  have h1 := congrArg (fun k : Key => k.node.val) h
  have h2 := congrArg (fun k : Key => k.channel.toNat) h
  simp [fullRecord, Record.key] at h1 h2
  exact Fin.ext (by omega)

theorem mem_indexOf {f : SlotNo → Key} {l : List SlotNo} {e : IndexEntry}
    (h : e ∈ l.map (fun i => (⟨f i, i⟩ : IndexEntry))) : ∃ i, e = ⟨f i, i⟩ := by
  obtain ⟨i, _, hi⟩ := List.mem_map.1 h
  exact ⟨i, hi.symm⟩

theorem indexLaw_full : full.IndexLaw := by
  refine ⟨?_, ?_, ?_⟩
  · intro i r hr
    rw [slot_full] at hr ⊢
    have : r = fullRecord i := by simpa using hr.symm
    subst this
    exact ⟨List.mem_map.2 ⟨i, List.mem_finRange i, rfl⟩, rfl⟩
  · intro e he
    have hm := mem_indexOf (f := fun i => (fullRecord i).key) (l := List.finRange 384) he
    have key : ∃ r, (full.slot e.slot).record = some r ∧ r.key = e.key := by
      rcases hm with ⟨i, rfl⟩
      exact ⟨fullRecord i, by rw [slot_full], rfl⟩
    rw [key.choose_spec.1]
    exact key.choose_spec.2
  · show (((List.finRange 384).map (fun i => (⟨(fullRecord i).key, i⟩ : IndexEntry))).map (·.key)).Nodup
    rw [List.map_map]
    refine List.Nodup.map ?_ (List.nodup_finRange 384)
    intro i j h
    exact fullRecord_key h

/-! ## The hypotheses of the statements are met -/

/-- Whether a row of a field is admitted, transfers the field whole, and is no access of the start-up clear. -/
def readyCheck (s : State) (f : Field) (isRead : Bool) : Bool :=
  s.admits f isRead && !(s.rowAccess isRead (f.first s.rowDirection)).sharedOnly
    && (s.rowAccess isRead (f.first s.rowDirection)).uncut f.length

theorem fieldNext {s : State} {f : Field} {isRead : Bool} (h : readyCheck s f isRead = true) : s.FieldNext f isRead := by
  unfold readyCheck at h
  simp only [Bool.and_eq_true, Bool.not_eq_true'] at h
  exact ⟨h.1.1, fun c => absurd (h.1.2 ▸ c) (by decide), h.2⟩

theorem hostReady {s : State} {f : Field} {isRead : Bool} (h : readyCheck s f isRead = true)
    (hc : s.accessInClear = false) : s.HostReady f isRead := ⟨fieldNext h, hc⟩

theorem commandReady {s : State} (h : readyCheck s .commandCode false = true) (hc : s.accessInClear = false)
    (hi : s.command.state = .idle) : s.CommandReady := ⟨hostReady h hc, hi⟩

theorem indexLaw_withArg {s : State} (h : s.IndexLaw) (a b c : Byte) : (withArg a b c s).IndexLaw := h

theorem commandReady_withArg {s : State} (h : s.CommandReady) (a b c : Byte) : (withArg a b c s).CommandReady := h

theorem witness_StepRunsTheFrontOperation :
    ({ one with pending := [.lookup, .abort] } : State).pending = .lookup :: [.abort] ∧ one.pending = [] := by decide

theorem commandReady_holding (r : Record) (e : NodeEntry) (a b c : Byte) (w : WindowArguments) :
    (withArg a b c (withWindow w (holding r e))).CommandReady := commandReady rfl rfl rfl

theorem witness_LookupFindsTheKey :
    (withArg 0 0 0 one).CommandReady ∧ one.IndexLaw
    ∧ ¬ (withArg 0 0 0 one).ArgKeyInRange ∧ ¬ (withArg 240 0 0 one).ArgKeyInRange
    ∧ ¬ (withArg 239 16 0 one).ArgKeyInRange
    ∧ ((withArg 17 2 0 one).ArgKey key17 ∧ (one.slot 5).record = some record17 ∧ record17.key = key17)
    ∧ ((withArg 17 15 0 one).ArgKey ⟨16, 15⟩ ∧ one.KeyAbsent ⟨16, 15⟩) := by
  refine ⟨commandReady rfl rfl rfl, indexLaw_holding _ _, ?_, ?_, ?_, ⟨⟨rfl, rfl⟩, ?_, rfl⟩, ⟨rfl, rfl⟩, keyAbsent_holding (by decide)⟩
  · unfold State.ArgKeyInRange
    decide
  · unfold State.ArgKeyInRange
    decide
  · unfold State.ArgKeyInRange
    decide
  · decide +kernel

theorem witness_ReadSlotReturnsTheImage :
    (withArg 0x80 1 0 one).CommandReady ∧ 384 ≤ (withArg 0x80 1 0 one).command.argWord.toNat
    ∧ ((withArg 5 0 0 one).command.argWord.toNat = (5 : SlotNo).val ∧ (one.slot 5).record = some record17)
    ∧ ((withArg 0x7F 1 0 one).command.argWord.toNat = (383 : SlotNo).val ∧ (one.slot 383).record = none) := by
  refine ⟨commandReady rfl rfl rfl, ?_⟩
  decide +kernel

/-- A state with a node entry in a state, and INSERT arguments for a key of it. -/
def inserting (n : NodeState) (c : Byte) : State :=
  withArg 17 c 0 (withWindow { noWindow with first := 7, select := 1, group := 7, permit := 1 }
    (holding record17 { bound17 with state := n }))

theorem good_inserting (n : NodeState) : (inserting n 2).InsertArgumentsGood ∧ (inserting n 15).InsertArgumentsGood := by
  unfold State.InsertArgumentsGood State.ArgKeyInRange
  cases n <;> decide +kernel

theorem witness_InsertChecksInOrder :
    ((withArg 17 16 0 one).CommandReady ∧ (withArg 17 16 0 one).IndexLaw ∧ ¬ (withArg 17 16 0 one).InsertArgumentsGood)
    ∧ ((inserting .free 2).InsertArgumentsGood ∧ (inserting .free 2).ArgKey key17
        ∧ ((inserting .free 2).node 16).state = .free)
    ∧ ((inserting .retiring 2).ArgKey key17 ∧ ((inserting .retiring 2).node 16).state = .retiring)
    ∧ ((inserting .silent 2).ArgKey key17 ∧ ((inserting .silent 2).node 16).state = .silent
        ∧ ((inserting .silent 2).slot 5).record = some record17 ∧ record17.key = key17)
    ∧ ((withArg 31 0 0 full).CommandReady ∧ (withArg 31 0 0 full).IndexLaw ∧ (withArg 31 0 0 full).InsertArgumentsGood
        ∧ (withArg 31 0 0 full).ArgKey ⟨30, 0⟩ ∧ (full.node 30).state = .bound
        ∧ full.KeyAbsent ⟨30, 0⟩ ∧ ∀ i : SlotNo, (full.slot i).record ≠ none) := by
  refine ⟨⟨commandReady rfl rfl rfl, indexLaw_holding record17 bound17, ?_⟩, ⟨(good_inserting _).1, ⟨rfl, rfl⟩, ?_⟩, ⟨⟨rfl, rfl⟩, ?_⟩,
    ⟨⟨rfl, rfl⟩, ?_, ?_, rfl⟩, ⟨commandReady_withArg (commandReady rfl rfl rfl) _ _ _, indexLaw_withArg indexLaw_full _ _ _, ?_, ⟨rfl, rfl⟩, ?_, ?_, ?_⟩⟩
  · unfold State.InsertArgumentsGood State.ArgKeyInRange
    decide
  · decide +kernel
  · decide +kernel
  · decide +kernel
  · decide +kernel
  · unfold State.InsertArgumentsGood State.ArgKeyInRange
    decide
  · decide +kernel
  · intro i r hr
    rw [slot_full] at hr
    have : r = fullRecord i := by simpa using hr.symm
    subst this
    intro h
    have := congrArg (fun k : Key => k.node.val) h
    have hi := i.isLt
    simp [fullRecord, Record.key] at this
    omega
  · intro i
    rw [slot_full]
    simp

theorem witness_InsertPlacesTheRecord :
    (inserting .offered 15).CommandReady ∧ (inserting .offered 15).IndexLaw ∧ (inserting .offered 15).InsertArgumentsGood
    ∧ (inserting .offered 15).ArgKey ⟨16, 15⟩ ∧ ((inserting .offered 15).node 16).state = .offered
    ∧ (inserting .offered 15).KeyAbsent ⟨16, 15⟩ ∧ ((inserting .offered 15).slot 0).record = none
    ∧ ∀ j : SlotNo, j < 0 → ((inserting .offered 15).slot j).record ≠ none := by
  refine ⟨commandReady rfl rfl rfl, indexLaw_holding record17 { bound17 with state := .offered }, (good_inserting _).2, ⟨rfl, rfl⟩, ?_,
    keyAbsent_holding (r := record17) (e := { bound17 with state := .offered }) (by decide), ?_, ?_⟩
  · decide +kernel
  · decide +kernel
  · intro j h
    exact absurd h (Nat.not_lt_zero _)

/-- AMEND arguments with a select set. -/
def amending (slot generation select group permit : Byte) : State :=
  withArg slot 0 generation (withWindow { noWindow with select := select, group := group, permit := permit } one)

theorem witness_AmendChecksInOrder :
    (amending 5 1 0x80 0 0).CommandReady
    ∧ (amending 5 1 0x80 0 0).AmendArgumentsBad ∧ (amending 5 1 0x03 0 0).AmendArgumentsBad
    ∧ (amending 5 1 0x60 0 0).AmendArgumentsBad ∧ (amending 5 1 0x08 8 0).AmendArgumentsBad
    ∧ (amending 5 1 0x10 0 2).AmendArgumentsBad ∧ (withArg 0x80 1 1 (amending 5 1 1 0 0)).AmendArgumentsBad
    ∧ (¬ (amending 4 1 1 0 0).AmendArgumentsBad ∧ (amending 4 1 1 0 0).command.argWord.toNat = (4 : SlotNo).val
        ∧ (one.slot 4).record = none)
    ∧ (¬ (amending 5 2 0x18 7 1).AmendArgumentsBad ∧ (amending 5 2 0x18 7 1).command.argWord.toNat = (5 : SlotNo).val
        ∧ (one.slot 5).record = some record17 ∧ record17.generation ≠ (amending 5 2 0x18 7 1).command.argByte 2) := by
  simp only [State.AmendArgumentsBad]
  refine ⟨commandReady rfl rfl rfl, ?_, ?_, ?_, ?_, ?_, ?_, ⟨?_, ?_⟩, ?_, ?_⟩ <;> decide +kernel

theorem witness_AmendAppliesTheSelectedChanges :
    (amending 5 1 0x44 0 0).CommandReady ∧ ¬ (amending 5 1 0x44 0 0).AmendArgumentsBad
    ∧ (amending 5 1 0x44 0 0).command.argWord.toNat = (5 : SlotNo).val
    ∧ (one.slot 5).record = some record17 ∧ record17.generation = (amending 5 1 0x44 0 0).command.argByte 2 := by
  simp only [State.AmendArgumentsBad]
  refine ⟨commandReady rfl rfl rfl, ?_⟩
  decide +kernel

/-- `one` with its node RETIRING. -/
def retiring : State := holding record17 { bound17 with state := .retiring }

theorem witness_RetireRemovesTheRecord :
    (withArg 0x80 1 0 one).CommandReady ∧ 384 ≤ (withArg 0x80 1 0 one).command.argWord.toNat
    ∧ ((withArg 0x7F 1 0 one).command.argWord.toNat = (383 : SlotNo).val ∧ (one.slot 383).record = none)
    ∧ ((withArg 5 0 2 one).command.argWord.toNat = (5 : SlotNo).val ∧ (one.slot 5).record = some record17
        ∧ record17.generation ≠ (withArg 5 0 2 one).command.argByte 2)
    ∧ (record17.generation = (withArg 5 0 1 one).command.argByte 2 ∧ (one.node record17.node).state ≠ .retiring)
    ∧ ((retiring.node record17.node).state = .retiring ∧ (retiring.node record17.node).recordCount = 1) := by
  refine ⟨commandReady rfl rfl rfl, ?_⟩
  decide +kernel

theorem witness_FindBeginsOrRefuses :
    (withArg 0x80 1 0 (withWindow { noWindow with permit := 7 } one)).CommandReady
    ∧ 384 ≤ (withArg 0x80 1 0 one).command.argWord.toNat
    ∧ 239 < (withWindow { noWindow with group := 240, permit := 1 } one).command.window.group.toNat
    ∧ ((withArg 0x7F 1 0 (withWindow { noWindow with group := 239, permit := 4 } one)).command.argWord.toNat
          = (383 : SlotNo).val
        ∧ ¬ (239 < (withWindow { noWindow with group := 239, permit := 4 } one).command.window.group.toNat)
        ∧ (withWindow { noWindow with group := 239, permit := 4 } one).command.window.permit.getLsbD 2 = true) := by
  refine ⟨commandReady rfl rfl rfl, ?_⟩
  decide +kernel

theorem witness_FindVisitJudgesTheSlot :
    ((finding 5).resetHeld = false ∧ (finding 5).command.state = .finding 3
      ∧ ((finding 5).slot 5).record = some record17 ∧ record17.halted = false ∧ record17.liveLevel.isSome = true
      ∧ (finding 5).command.window.permit.getLsbD 1 = true ∧ (finding 5).command.window.demand = 0
      ∧ (finding 5).command.window.group = 0)
    ∧ ((finding 383).command.state = .finding 3 ∧ ((finding 383).slot 383).record = none)
    ∧ ((finding 382).command.scan = 382 ∧ ((finding 382).slot 382).record = none ∧ (383 : SlotNo).val = (382 : SlotNo).val + 1) := by
  decide +kernel

/-- OFFER of an address and an identity over one OFFERED, BOUND or other entry of address 17 with identity 5. -/
def offering (address : Byte) (identity : Identity) (lifetime : Word16) : State :=
  withArg address 0 0 (withWindow { noWindow with identity := identity, first := lifetime } (noded bound17))

theorem notTaken_offering {a : Byte} {v : Identity} {k : Word16} (h : v ≠ 5) :
    ∀ m : NodeNo, ((offering a v k).node m).state ≠ .free → ((offering a v k).node m).identity ≠ some v := by
  intro m hm
  rw [show (offering a v k).node m = if m = 16 then bound17 else NodeEntry.reset from node_noded bound17 m] at hm ⊢
  split
  · intro e
    have : (5 : Identity) = v := Option.some.inj e
    exact h this.symm
  · intro e
    cases e

theorem witness_OfferChecksInOrder :
    (offering 0 9 0).CommandReady ∧ (offering 0 9 0).IdentityLaw
    ∧ (¬ 1 ≤ ((offering 0 9 0).command.argByte 0).toNat)
    ∧ (¬ ((offering 240 9 0).command.argByte 0).toNat ≤ 239)
    ∧ (((offering 17 9 0).command.argByte 0).toNat = nodeAddress 16 ∧ ((offering 17 9 0).node 16).state ≠ .free)
    ∧ (((offering 239 0 0).command.argByte 0).toNat = nodeAddress 238 ∧ ((offering 239 0 0).node 238).state = .free
        ∧ (offering 239 0 0).command.window.identity = 0)
    ∧ ((offering 1 5 0).command.window.identity = 5 ∧ ((offering 1 5 0).node 16).state ≠ .free
        ∧ ((offering 1 5 0).node 16).identity = some 5 ∧ ((offering 1 5 0).command.argByte 0).toNat = nodeAddress 0)
    ∧ (4095 < (offering 1 9 4096).command.window.first.toNat
        ∧ ∀ m : NodeNo, ((offering 1 9 4096).node m).state ≠ .free → ((offering 1 9 4096).node m).identity ≠ some 9) := by
  refine ⟨commandReady rfl rfl rfl, identityLaw_noded _, ?_, ?_, ?_, ?_, ?_, ?_, notTaken_offering (by decide)⟩ <;> decide +kernel

theorem witness_OfferReservesTheAddress :
    (offering 239 9 4095).CommandReady ∧ ((offering 239 9 4095).command.argByte 0).toNat = nodeAddress 238
    ∧ (offering 239 9 4095).line.rangeLow.toNat ≤ nodeAddress 238
    ∧ nodeAddress 238 ≤ (offering 239 9 4095).line.rangeHigh.toNat
    ∧ ((offering 239 9 4095).node 238).state = .free
    ∧ (offering 239 9 4095).command.window.identity ≠ 0
    ∧ (offering 239 9 4095).command.window.identity ≠ BitVec.allOnes 64
    ∧ (offering 239 9 4095).command.window.first.toNat ≤ 4095
    ∧ ∀ m : NodeNo, ((offering 239 9 4095).node m).state ≠ .free → ((offering 239 9 4095).node m).identity ≠ some 9 := by
  refine ⟨commandReady rfl rfl rfl, ?_, ?_, ?_, ?_, ?_, ?_, ?_, notTaken_offering (by decide)⟩ <;> decide +kernel

theorem witness_ReadNodeReturnsTheImage :
    (withArg 240 0 0 one).CommandReady ∧ ¬ ((withArg 240 0 0 one).command.argByte 0).toNat ≤ 239
    ∧ (((withArg 239 0 0 one).command.argByte 0).toNat = nodeAddress 238 ∧ (one.node 238).state = .free)
    ∧ (((withArg 17 0 0 one).command.argByte 0).toNat = nodeAddress 16 ∧ (one.node 16).state ≠ .free) := by
  refine ⟨commandReady rfl rfl rfl, ?_⟩
  decide +kernel

theorem witness_RetireNodeBegins :
    (withArg 0 0 0 one).CommandReady ∧ ¬ 1 ≤ ((withArg 0 0 0 one).command.argByte 0).toNat
    ∧ (((withArg 1 0 0 one).command.argByte 0).toNat = nodeAddress 0 ∧ (one.node 0).state = .free)
    ∧ ((noded { bound17 with recordCount := 0 }).node 16).recordCount = 0
    ∧ ((one.node 16).state ≠ .free ∧ (one.node 16).recordCount ≠ 0) := by
  refine ⟨commandReady rfl rfl rfl, ?_⟩
  decide +kernel

theorem witness_CascadeVisitRemovesTheRecord :
    ((cascading 382 1).resetHeld = false ∧ (cascading 382 1).command.state = .cascading 16 0
      ∧ (∀ r ∈ ((cascading 382 1).slot 382).record, r.node ≠ 16) ∧ (383 : SlotNo).val = (382 : SlotNo).val + 1)
    ∧ (((cascading 5 1).slot 5).record = some record17 ∧ record17.node = 16 ∧ ((cascading 5 1).node 16).recordCount = 1)
    ∧ 1 < ((cascading 5 2).node 16).recordCount := by
  decide +kernel

theorem witness_LoadPromotesTheNamedGroups :
    (withArg 0 0 0 one).CommandReady ∧ (withArg 0 0 0 one).command.argByte 0 = 0
    ∧ (withArg 0x10 0 0 one).command.argByte 0 ≠ 0 := by
  refine ⟨commandReady rfl rfl rfl, ?_⟩
  decide

/-- A schedule of some entries, the targets 1, 2 and so on. -/
def scheduled (n : Nat) : State := { one with schedule := (List.range n).map (fun k => ⟨BitVec.ofNat 16 (k + 1), 1⟩) }

theorem scheduleLaw_scheduled : (scheduled 2).ScheduleLaw ∧ (scheduled 6).ScheduleLaw := by
  unfold State.ScheduleLaw
  decide +kernel

theorem witness_ScheduleMergesOrAppends :
    ((withArg 0 0 1 (scheduled 2)).CommandReady ∧ (withArg 0 0 1 (scheduled 2)).ScheduleLaw
      ∧ ((withArg 0 0 1 (scheduled 2)).command.argWord - one.cycle.counter).toNat = 0)
    ∧ ((withArg 0 0x80 1 (scheduled 2)).command.argWord - one.cycle.counter).toNat = 32768
    ∧ (((withArg 0xFF 0x7F 0 (scheduled 2)).command.argWord - one.cycle.counter).toNat = 32767
        ∧ (withArg 0xFF 0x7F 0 (scheduled 2)).command.argByte 2 = 0)
    ∧ ((scheduled 2).schedule[1]? = some ⟨2, 1⟩ ∧ (withArg 2 0 4 (scheduled 2)).command.argWord = 2)
    ∧ ((∀ e ∈ (scheduled 2).schedule, e.target ≠ 9) ∧ (scheduled 2).schedule.length < 6)
    ∧ ((scheduled 6).ScheduleLaw ∧ (∀ e ∈ (scheduled 6).schedule, e.target ≠ 9) ∧ (scheduled 6).schedule.length = 6) := by
  refine ⟨⟨commandReady rfl rfl rfl, scheduleLaw_scheduled.1, ?_⟩, ?_, ?_, ?_, ?_, ⟨scheduleLaw_scheduled.2, ?_⟩⟩ <;> decide +kernel

theorem witness_UnscheduleRemovesTheEntry :
    (withArg 2 0 0 (scheduled 2)).CommandReady ∧ (withArg 2 0 0 (scheduled 2)).ScheduleLaw
    ∧ ((scheduled 2).schedule[1]? = some ⟨2, 1⟩ ∧ (withArg 2 0 0 (scheduled 2)).command.argWord = 2)
    ∧ ∀ e ∈ (scheduled 2).schedule, e.target ≠ (withArg 3 0 0 (scheduled 2)).command.argWord := by
  refine ⟨commandReady rfl rfl rfl, scheduleLaw_scheduled.1, ?_⟩
  decide +kernel

theorem witness_AbortStopsTheScan :
    (one.HostReady .commandCode false ∧ one.command.state = .idle)
    ∧ ((finding 7).HostReady .commandCode false ∧ (finding 7).command.state = .finding 3)
    ∧ ((cascading 7 1).HostReady .commandCode false ∧ (cascading 7 1).command.state = .cascading 16 0) :=
  ⟨⟨hostReady rfl rfl, rfl⟩, ⟨hostReady rfl rfl, rfl⟩, ⟨hostReady rfl rfl, rfl⟩⟩

theorem witness_CodesNotTakenAsCommands :
    (one.CommandReady ∧ (0x07 : Byte) ∉ commandCodes)
    ∧ ((finding 7).HostReady .commandCode false ∧ (finding 7).command.state ≠ .idle) :=
  ⟨⟨commandReady rfl rfl rfl, by decide⟩, hostReady rfl rfl, by decide⟩

/-! ### The line -/

theorem lineLaw_listening (s : State) (h : s.line.state = .listen) (ha : s.line.answer = none) (hb : s.line.beacon = none)
    (hh : s.line.held = none) : s.LineLaw := by
  unfold State.LineLaw
  rw [h]
  exact ⟨ha, hb, hh⟩

theorem witness_PollOutsideIsIgnored :
    one.Listening ∧ one.LineLaw ∧ ¬ one.TakesPolls 17
    ∧ ¬ (running one).TakesPolls 0 ∧ ¬ (running one).TakesPolls 240 := by
  unfold State.TakesPolls
  refine ⟨⟨rfl, rfl⟩, lineLaw_listening one rfl rfl rfl rfl, ?_⟩
  decide

theorem witness_PollRefusedAtTheGate :
    (running one).Listening ∧ (running one).TakesPolls 1 ∧ (running one).TakesPolls 239
    ∧ ((poll17 true none none).address.toNat = nodeAddress 16)
    ∧ ((running (noded { bound17 with state := .offered })).node 16).state = .offered
    ∧ ((239 : Byte).toNat = nodeAddress 238 ∧ ((running one).node 238).state = .free)
    ∧ ((running retiring).node 16).state = .retiring := by
  unfold State.TakesPolls
  refine ⟨⟨rfl, rfl⟩, ?_⟩
  decide +kernel

theorem witness_PollWithoutARecordIsRefused :
    (running one).Listening ∧ (running one).IndexLaw ∧ (running one).TakesPolls 17
    ∧ (17 : Byte).toNat = nodeAddress 16 ∧ ((running one).node 16).PassesGate
    ∧ (running one).KeyAbsent ⟨16, 0⟩ := by
  unfold State.TakesPolls NodeEntry.PassesGate
  refine ⟨⟨rfl, rfl⟩, indexLaw_holding record17 bound17, ?_, ?_, ?_,
    keyAbsent_holding (r := record17) (e := bound17) (by decide)⟩ <;> decide +kernel

theorem witness_PollIsAnsweredFromTheRecord :
    (running one).Listening ∧ (running one).IndexLaw ∧ (running one).TakesPolls 17
    ∧ (17 : Byte).toNat = nodeAddress 16 ∧ ((running one).node 16).PassesGate
    ∧ ((running one).slot 5).record = some record17 ∧ record17.key = ⟨16, 2⟩ := by
  unfold State.TakesPolls NodeEntry.PassesGate
  refine ⟨⟨rfl, rfl⟩, indexLaw_holding record17 bound17, ?_, ?_, ?_, ?_, ?_⟩ <;> decide +kernel

/-- Identity 5 at the very end of a body of the least length that can hold it. -/
theorem witness_AnnounceIdentityIsTheFirstPattern :
    (bytes64 5).length = 8
    ∧ body5.drop 2 = [0x96, 0x96, 0x96] ++ bytes64 5 ++ bytes64 5 ++ bytes64 5 ++ bytes64 5 ++ []
    ∧ join64 (bytes64 5) ≠ 0 ∧ join64 (bytes64 5) ≠ BitVec.allOnes 64
    ∧ (∀ q < 2, body5.drop q = [0x96, 0x96, 0x96] ++ (body5.drop (q + 3)) → False)
    ∧ (List.replicate 12 (0 : Byte)).length < 35 := by decide

theorem witness_AnnounceMeetsTheNodeTable :
    one.Listening ∧ one.LineLaw ∧ one.IdentityLaw ∧ 12 ≤ body5.length ∧ body5.length ≤ 64
    ∧ searchIdentity (List.replicate 12 0) = none
    ∧ (searchIdentity body5 = some 5 ∧ (one.node 16).state = .bound ∧ (one.node 16).identity = some 5
        ∧ one.cycle.state = .stopped)
    ∧ ((running (noded { bound17 with state := .offered })).IdentityLaw
        ∧ ((running (noded { bound17 with state := .offered })).node 16).state = .offered
        ∧ (running one).cycle.state ≠ .stopped)
    ∧ ∀ n : NodeNo, (ready.node n).state = .free := by
  refine ⟨⟨rfl, rfl⟩, lineLaw_listening one rfl rfl rfl rfl, identityLaw_holding _ _, ?_, ?_, ?_, ?_,
    ⟨identityLaw_noded { bound17 with state := .offered }, ?_⟩, ?_⟩ <;> decide +kernel

theorem witness_BeaconActsByCycleState :
    (one.Listening ∧ one.LineLaw ∧ one.cycle.state = .stopped) ∧ (running one).cycle.state = .running
    ∧ (following .seeking none one).cycle.state = .seeking
    ∧ ((following .locked (some 22500) one).cycle.state = .locked
        ∧ (1001 : Word16) = (following .locked (some 22500) one).cycle.counter + 1)
    ∧ (following .coasting (some 22500) one).cycle.state = .coasting := by
  refine ⟨⟨⟨rfl, rfl⟩, lineLaw_listening one rfl rfl rfl rfl, rfl⟩, rfl, rfl, ⟨rfl, rfl⟩, rfl⟩

theorem witness_CycleStartCountsTheNodes : (running one).NodeLaw := nodeLaw_holding record17 lawful_bound17

/-- Entries on the target, inside the interval at its far end, and outside it, for a move from 1000 to 1005. -/
theorem witness_CycleStartFiresTheSchedule :
    (∀ e ∈ ([⟨1000, 1⟩, ⟨1006, 1⟩] : List ScheduleEntry), e.fires 1000 1005 = false)
    ∧ (∃ e ∈ ([⟨1001, 4⟩, ⟨1005, 2⟩, ⟨1006, 1⟩] : List ScheduleEntry), e.fires 1000 1005 = true)
    ∧ (∀ b < 8, (6 : Byte).getLsbD b = true ↔
        ∃ e ∈ ([⟨1001, 4⟩, ⟨1005, 2⟩, ⟨1006, 1⟩] : List ScheduleEntry), e.fires 1000 1005 = true ∧ e.mask.getLsbD b = true) := by
  decide

theorem witness_CycleTimerExpiryStartsACycle :
    (running one).resetHeld = false ∧ (running one).cycle.state = .running ∧ (running one).cycle.timer.isSome = true :=
  ⟨rfl, rfl, rfl⟩

theorem witness_BeaconDeadlineExpiryIsAMiss :
    (following .locked (some 22500) one).resetHeld = false
    ∧ (following .locked (some 22500) one).cycle.deadline.isSome = true
    ∧ (following .locked (some 22500) one).cycle.state = .locked
    ∧ ((following .coasting (some 22500) one).cycle.deadline.isSome = true
        ∧ (following .coasting (some 22500) one).cycle.state = .coasting) := ⟨rfl, rfl, rfl, rfl, rfl⟩

/-! ### Settings -/

theorem witness_CycleControlWriteFollowsTheTable :
    (one.HostReady .cycleControl false ∧ one.cycle.run = false)
    ∧ ((running one).HostReady .cycleControl false ∧ (running one).cycle.run = true ∧ (running one).cycle.mode = .source)
    ∧ ((0x02 : Byte).getLsbD 0 = false ∧ (0x03 : Byte).getLsbD 0 = true ∧ (0x03 : Byte).getLsbD 1 = true) :=
  ⟨⟨hostReady rfl rfl, rfl⟩, ⟨hostReady rfl rfl, rfl, rfl⟩, rfl, rfl, rfl⟩

theorem witness_SettingWritesAreJudged :
    one.HostReady .cyclePeriod false ∧ one.HostReady .lineRate false ∧ one.HostReady .answerGap false
    ∧ one.cycle.run = false ∧ (running one).HostReady .lineRate false ∧ (running one).cycle.run = true
    ∧ (2 ≤ (2 : Byte).toNat ∧ (200 : Byte).toNat ≤ 200 ∧ (1 : Byte).toNat < 2 ∧ 200 < (201 : Byte).toNat)
    ∧ ((3 : Byte).toNat ≤ 3 ∧ 3 < (4 : Byte).toNat) ∧ ((15 : Byte).toNat ≤ 15 ∧ 15 < (16 : Byte).toNat) :=
  ⟨hostReady rfl rfl, hostReady rfl rfl, hostReady rfl rfl, rfl, hostReady rfl rfl, rfl, by decide, by decide, by decide⟩

theorem witness_AnswerRangeWriteIsJudged :
    one.HostReady .answerRange false ∧ one.cycle.run = false
    ∧ (∀ n : NodeNo, (one.node n).state ≠ .free → (17 : Byte).toNat ≤ nodeAddress n ∧ nodeAddress n ≤ (17 : Byte).toNat)
    ∧ (¬ ∀ n : NodeNo, (one.node n).state ≠ .free → (18 : Byte).toNat ≤ nodeAddress n) := by
  refine ⟨hostReady rfl rfl, rfl, ?_⟩
  decide +kernel

/-! ### Reception and sending -/

theorem witness_DamageIsCountedAndIgnoredKindsAreNot :
    (State.reset.clearing = true ∧ (after .resetPinAssert one).resetHeld = true)
    ∧ (one.LineLaw ∧ one.receives = true ∧ one.line.state = .listen)
    ∧ (receiving.LineLaw ∧ receiving.line.state = .receiving ⟨[0x21, 17], false, none, 1⟩)
    ∧ ((gapped (.wait key17 5 1 false)).LineLaw ∧ (gapped (.wait key17 5 1 false)).line.state = .gap .answer 3 1)
    ∧ ((sending (.wait key17 5 1 false) false).LineLaw
        ∧ ∃ wire, (sending (.wait key17 5 1 false) false).line.state = .sending .answer wire 1 false) :=
  ⟨⟨rfl, rfl⟩, ⟨lineLaw_listening one rfl rfl rfl rfl, rfl, rfl⟩, ⟨⟨rfl, rfl⟩, rfl⟩, ⟨⟨rfl, rfl⟩, rfl⟩, ⟨⟨rfl, rfl⟩, _, rfl⟩⟩

/-- A reception with some content. -/
def receivingOf (f : Reception) : State := lined (.receiving f) none none none one

theorem witness_ReceiverTakesEachByte :
    one.receives = true ∧ one.line.state = .listen ∧ (gapped (.wait key17 5 1 false)).line.state = .gap .answer 3 1
    ∧ ((receivingOf ⟨List.replicate 79 0, false, none, 1⟩).receives = true
        ∧ (List.replicate 79 (0 : Byte)).length < 80 ∧ 80 ≤ (List.replicate 80 (0 : Byte)).length)
    ∧ ((0x41 : Byte) ∉ ([0xE9, 0xEA, 0xEB] : List Byte) ∧ (0xE9 : Byte) ∈ ([0xE9, 0xEA, 0xEB] : List Byte)) := by
  decide

/-- The two bytes read back in SENDING, before and behind the place of the part's own start marker. -/
theorem witness_ReceiverTakesEachByte_sending :
    (∃ wire, (sending (.wait key17 5 1 false) false).line.state = .sending .answer wire 1 false)
    ∧ ∃ wire, (after (.startMarker []) (sending (.wait key17 5 1 false) false)).line.state = .sending .answer wire 1 true :=
  ⟨⟨_, rfl⟩, _, rfl⟩

/-- At the end marker: contents with a whole CRC of each kind, one of the wrong length for its kind among them. -/
theorem witness_ReceiverTakesEachByte_judged :
    bytes16 (crc16 [0x21]) ≠ [0, 0]
    ∧ (∀ body ∈ [[0x21], [0x2A], [0x40], [0x61], [0x99], pollBody (poll17 true (some 7) (some 9)), announceContent body5,
          beaconBody 7], 3 ≤ (withCrc body).length
        ∧ bytes16 (crc16 ((withCrc body).take ((withCrc body).length - 2))) = (withCrc body).drop ((withCrc body).length - 2)
        ∧ (withCrc body).take ((withCrc body).length - 2) = body)
    ∧ (0x99 : Byte) ∉ ([0x21, 0x2A, 0x40, 0x61, 0x62, 0x63, 0x64, 0x65] : List Byte) := by
  decide +kernel

theorem witness_ReceiverTakesEachByte_lengths :
    (∀ p, [0x21] ≠ pollBody p) ∧ (∀ x : List Byte, 12 ≤ x.length → x.length ≤ 64 → [0x2A] ≠ announceContent x)
    ∧ ∀ number, [0x40] ≠ beaconBody number := by
  refine ⟨fun p h => ?_, fun x _ _ h => ?_, fun n h => ?_⟩
  · simp [pollBody] at h
  · simp [announceContent] at h
  · simp [beaconBody, bytes16] at h

/-- A beacon pending in RECEIVING. -/
def receivingWithBeacon : State :=
  lined (.receiving ⟨withCrc (pollBody (poll17 true none none)), false, none, 1⟩) none (some 7) none (running one)

theorem witness_ReceiverTakesEachByte_pending :
    receivingWithBeacon.LineLaw ∧ receivingWithBeacon.receives = true ∧ receivingWithBeacon.cycle.state = .running
    ∧ (receivingWithBeacon.lineByte ⟨0xFA, false⟩).line.state = .gap .answer 3 1
    ∧ (receivingWithBeacon.lineByte ⟨0xFA, false⟩).line.beacon = some 7 := by
  refine ⟨⟨rfl, rfl⟩, rfl, rfl, ?_⟩
  decide +kernel

theorem witness_AnswerGapExpirySendsTheFrame :
    ((gapped (.wait key17 5 1 true)).resetHeld = false ∧ (gapped (.wait key17 5 1 true)).line.state = .gap .answer 3 1
      ∧ (gapped (.wait key17 5 1 true)).line.answer = some ⟨.wait key17 5 1 true, false⟩)
    ∧ ((gapped (.level key17 5 1 true 0xFAF9 true)).line.answer = some ⟨.level key17 5 1 true 0xFAF9 true, false⟩)
    ∧ ((gapped (.refuse key17 .noNode)).line.answer = some ⟨.refuse key17 .noNode, false⟩)
    ∧ ((gapped (.halt key17 5 1 false)).line.answer = some ⟨.halt key17 5 1 false, false⟩)
    ∧ ((gapped (.assign key17.node 5)).line.answer = some ⟨.assign key17.node 5, false⟩)
    ∧ ((lined (.gap .beacon 3 1) none (some 7) none one).line.state = .gap .beacon 3 1
        ∧ (lined (.gap .beacon 3 1) none (some 7) none one).line.beacon = some 7)
    ∧ ((sending (.wait key17 5 1 true) false).driverEnabled = true ∧ one.driverEnabled = false) :=
  ⟨⟨rfl, rfl, rfl⟩, rfl, rfl, rfl, rfl, ⟨rfl, rfl⟩, rfl, rfl⟩

theorem witness_PollAnswerCompletions :
    ((sending (.level key17 5 1 true 800 false) false).resetHeld = false
      ∧ (∃ wire, (sending (.level key17 5 1 true 800 false) false).line.state = .sending .answer wire 1 false)
      ∧ ((sending (.level key17 5 1 true 800 false) false).slot 5).record = some record17
      ∧ record17.generation = 1 ∧ record17.liveSeq = true)
    ∧ ((sending (.level key17 5 1 true 800 false) true).line.answer = some ⟨.level key17 5 1 true 800 false, true⟩)
    ∧ ((sending (.halt key17 5 1 false) false).line.answer = some ⟨.halt key17 5 1 false, false⟩) := by
  refine ⟨⟨rfl, ⟨_, rfl⟩, ?_, rfl, rfl⟩, rfl, rfl⟩
  decide +kernel

theorem witness_AssignCompletionAssigns :
    ((sending (.assign 16 5) false).resetHeld = false
      ∧ (∃ wire, (sending (.assign 16 5) false).line.state = .sending .answer wire 1 false)
      ∧ (sending (.assign 16 5) false).line.answer = some ⟨.assign 16 5, false⟩
      ∧ ((sending (.assign 16 5) false).node 16).state = .bound
      ∧ ((sending (.assign 16 5) false).node 16).identity = some 5)
    ∧ ((sending (.assign 16 6) false).node 16).identity ≠ some 6 := by
  refine ⟨⟨rfl, ⟨_, rfl⟩, rfl, ?_, ?_⟩, ?_⟩ <;> decide +kernel

theorem witness_BeaconCompletionTakesTheHeldRequest :
    (lined (.sending .beacon (beaconWire 7) 1 true) none (some 7) (some 8) one).resetHeld = false
    ∧ (lined (.sending .beacon (beaconWire 7) 1 true) none (some 7) (some 8) one).line.state
        = .sending .beacon (beaconWire 7) 1 true := ⟨rfl, rfl⟩

/-! ### Events, interface block, fields -/

theorem witness_EventWritesAndIrqn : one.HostReady .eventRegister false ∧ one.HostReady .eventMask false :=
  ⟨hostReady rfl rfl, hostReady rfl rfl⟩

/-- A streaming access to chip code 0, at its start. -/
def accessAt (isRead : Bool) (start : HostAddr) : Access :=
  { taken := true, isRead := isRead, sharedOnly := false, start := start, addr := start, count := 0, mode := .streaming,
    direction := .ascending, loop := 0, keepLoop := false, duringClear := false, loopWritten := false, alone := false, transfer := none }

/-- `one` in the data phase of that access. -/
def inAccess (isRead : Bool) (start : HostAddr) : State :=
  { one with port := { one.port with phase := .data (accessAt isRead start) } }

theorem witness_InterfaceBlockWrites :
    one.HostReady .errorFlags false ∧ one.HostReady .loopLength false ∧ (inAccess false 1).HostReady .loopLength false
    ∧ one.HostReady .interfaceControl false
    ∧ (one.HostReady .crcEnablePair false ∧ one.startsAtPair = true)
    ∧ ((inAccess false 2).HostReady .crcEnablePair false ∧ (inAccess false 2).startsAtPair = true)
    ∧ (after (.loopLengthWrite 4) (inAccess false 1)).HostReady .crcEnablePair false
    ∧ (after (.loopLengthWrite 4) (inAccess false 1)).startsAtPair = false
    ∧ ((1 : Byte).getLsbD 0 ≠ (1 : Byte).getLsbD 1 ∧ (3 : Byte).getLsbD 0 = (3 : Byte).getLsbD 1) :=
  ⟨hostReady rfl rfl, hostReady rfl rfl, hostReady rfl rfl, hostReady rfl rfl, ⟨hostReady rfl rfl, rfl⟩,
    ⟨hostReady rfl rfl, rfl⟩, hostReady (by decide +kernel) (by decide +kernel), by decide +kernel, by decide⟩

/-- `one` with the CRC on. -/
def withCrcOn : State := { one with port := { one.port with crcOn := true } }

theorem witness_RegisterWriteIsJudged :
    one.HostReady (fieldAt 0x0034) false ∧ withCrcOn.HostReady (fieldAt 0x0034) false
    ∧ one.HostReady (fieldAt 0x03FF) false ∧ one.HostReady (fieldAt 0x1BF0) false ∧ one.HostReady (fieldAt 0x005F) false
    ∧ one.HostReady (fieldAt 0x0030) false ∧ one.HostReady (fieldAt 0x0002) false ∧ one.HostReady (fieldAt 0x0000) false :=
  ⟨hostReady (by decide +kernel) rfl, hostReady (by decide +kernel) rfl, hostReady (by decide +kernel) rfl,
    hostReady (by decide +kernel) rfl, hostReady (by decide +kernel) rfl, hostReady (by decide +kernel) rfl,
    hostReady (by decide +kernel) rfl, hostReady (by decide +kernel) rfl⟩

theorem witness_RegisterWriteIsJudged_fields :
    ((fieldAt 0x0034).base = 0x0034 ∧ (fieldAt 0x0034).length = 4)
    ∧ (fieldAt 0x03FF) = .unknown 0x03FF
    ∧ ((fieldAt 0x1BF0).readOnly = true ∧ (fieldAt 0x1BF0).base = 0x1BF0 ∧ (fieldAt 0x1BF0).length = 16)
    ∧ ((fieldAt 0x005F).base = 0x005F ∧ one.command.state = .idle ∧ (finding 5).command.state ≠ .idle)
    ∧ one.fieldCrcMatches (fieldAt 0x0034) [1, 2, 3, 4] 0 = true
    ∧ withCrcOn.fieldCrcMatches .commandCode [1] 0 = false
    ∧ (withCrcOn.startsAtPair = true ∧ withCrcOn.fieldCrcMatches .crcEnablePair [1] 0 = true) := by
  decide +kernel

/-- A run inside a field: from its first byte, from inside it, and from inside it to its last byte; with CSN high and in an access. -/
theorem witness_RegisterWriteIsJudged_runs :
    (one.admitsAt 0x0034 false = true ∧ one.accessInClear = false ∧ (one.rowAccess false 0x0034).uncut 3 = true
      ∧ (fieldAt 0x0034).base = 0x0034 ∧ 3 < (fieldAt 0x0034).length ∧ one.port.phase = .idle)
    ∧ ((fieldAt 0x0402).base ≠ 0x0402 ∧ one.admitsAt 0x0402 false = true
        ∧ (0x0402 : HostAddr).toNat + 14 = (fieldAt 0x0402).base.toNat + (fieldAt 0x0402).length)
    ∧ ((inAccess false 0x0035).admitsAt 0x0035 false = true ∧ (inAccess false 0x0035).port.frameCrc = false
        ∧ (inAccess false 0x0035).accessInClear = false ∧ ((inAccess false 0x0035).rowAccess false 0x0035).uncut 2 = true) := by
  decide +kernel

theorem witness_TakeLatchesTheHead :
    (one.HostReady .takeField true ∧ one.attention = [])
    ∧ ((inAccess true 0x0080).HostReady .takeField true ∧ (inAccess true 0x0080).attention = [])
    ∧ (attending.HostReady .takeField true ∧ attending.attention = .record 5 :: []
        ∧ (attending.slot 5).record = some { record17 with reasons := ⟨true, false, false⟩ })
    ∧ ({ one with attention := [.node 16] } : State).attention = .node 16 :: [] := by
  refine ⟨⟨hostReady rfl rfl, rfl⟩, ⟨hostReady rfl rfl, rfl⟩, ⟨hostReady rfl rfl, rfl, ?_⟩, rfl⟩
  decide +kernel

/-- A read of a field in an access that stands at its second byte, the others of a latch to be sent. -/
def readOn (f : Field) (rest : List Byte) : Transfer := ⟨f, false, f.base, f.length - 1, rest, [0]⟩

/-- The access of that read, in a frame of its own. -/
def readAccess (f : Field) (rest : List Byte) : Access :=
  { accessAt true f.base with addr := f.base + 1, count := 1, alone := true, transfer := some (readOn f rest) }

/-- `attending` in the read of the take field, with a take latched. -/
def taking (latch : TakeLatch) : State :=
  { attending with
    take := some latch
    port := { one.port with phase := .data (readAccess .takeField [5, 1, 1]) } }

theorem reading_taking (latch : TakeLatch) :
    (taking latch).Reading .takeField (readAccess .takeField [5, 1, 1]) (readOn .takeField [5, 1, 1]) :=
  ⟨rfl, rfl, rfl, rfl, rfl, rfl, rfl, rfl, rfl, by decide, by decide, rfl, by decide, by decide⟩

theorem witness_TakeCompletionRemovesTheLatchedReasons :
    ((taking .noSubject).take = some .noSubject ∧ (readAccess .takeField [5, 1, 1]).duringClear = false)
    ∧ ((taking (.record 5 1 ⟨true, false, false⟩ .none false)).attention.contains (.record 5) = true
        ∧ ((taking (.record 5 1 ⟨true, false, false⟩ .none false)).slot 5).record
          = some { record17 with reasons := ⟨true, false, false⟩ })
    ∧ ((taking (.record 6 1 ⟨true, false, false⟩ .none false)).attention.contains (.record 6) = false)
    ∧ ((taking (.node 16 .none .none false)).attention.contains (.node 16) = false)
    ∧ ({ taking (.node 16 .none .none false) with attention := [.node 16] } : State).attention.contains (.node 16) = true := by
  refine ⟨⟨rfl, rfl⟩, ⟨rfl, ?_⟩, rfl, rfl, rfl⟩
  decide +kernel

/-- `damaged7` in the read of the damaged-frame count, with the count latched. -/
def counting : State :=
  { damaged7 with
    line := { damaged7.line with damagedLatch := some ⟨7, 2⟩ }
    port := { one.port with phase := .data (readAccess .damagedCount [0]) } }

theorem witness_DamagedCountReadKeepsLaterDamage :
    damaged7.HostReady .damagedCount true
    ∧ counting.Reading .damagedCount (readAccess .damagedCount [0]) (readOn .damagedCount [0])
    ∧ (readAccess .damagedCount [0]).duringClear = false ∧ counting.line.damagedLatch = some ⟨7, 2⟩ :=
  ⟨hostReady rfl rfl, ⟨rfl, rfl, rfl, rfl, rfl, rfl, rfl, rfl, rfl, by decide, by decide, rfl, by decide, by decide⟩, rfl, rfl⟩

theorem witness_InstructionPhaseOpensAnAccess :
    (one.port.phase = .idle ∧ one.resetHeld = false ∧ one.statusBytes.first.getLsbD 0 = false)
    ∧ (State.reset.port.phase = .idle ∧ State.reset.statusBytes.first.getLsbD 0 = true)
    ∧ ((0xA0 : Byte).extractLsb' 5 2 ≠ one.port.chipCode ∧ (0xA0 : Byte).getLsbD 7 = true)
    ∧ ((0x20 : Byte).getLsbD 7 = false ∧ (0x20 : Byte).extractLsb' 0 5 ++ (0x0F : Byte) ≤ (0x000F : HostAddr)
        ∧ ¬ (0x20 : Byte).extractLsb' 0 5 ++ (0x10 : Byte) ≤ (0x000F : HostAddr))
    ∧ ((0x80 : Byte).extractLsb' 5 2 = one.port.chipCode ∧ one.port.crcOn = false ∧ one.port.config.mode = .streaming)
    ∧ ((0x00 : Byte).getLsbD 7 = false ∧ (0x00 : Byte).extractLsb' 0 5 ++ (0x02 : Byte) = (0x0002 : HostAddr))
    ∧ crc8 0x3C [0x80, 0x06] ≠ 0
    ∧ withCrcOn.port.crcOn = true := by decide +kernel

/-- Whether the port awaits the CRC byte of a field. -/
def awaitsCrc (s : State) : Bool :=
  match s.port.phase with
  | .fieldCrc _ _ => true
  | _ => false

/-- The data phase: at the start of a field, inside it, at its last byte, at a return of the loop, and past the shared block; and behind a field in single-field mode. -/
theorem witness_InstructionPhaseOpensAnAccess_data :
    ((accessAt true 0x0006).taken = true ∧ (accessAt true 0x0006).transfer = none ∧ (accessAt true 0x0006).sharedOnly = false)
    ∧ ((readAccess .takeField [5, 1, 1]).transfer = some (readOn .takeField [5, 1, 1])
        ∧ 2 ≤ (readOn .takeField [5, 1, 1]).left ∧ (readAccess .takeField [5, 1, 1]).loop = 0)
    ∧ (readOn .damagedCount [0]).left = 1
    ∧ (({ readAccess .takeField [5, 1, 1] with loop := 2 } : Access).count + 1) % 2 = 0
    ∧ (sharedAddr 0x000F = true ∧ sharedAddr 0x0010 = false)
    ∧ (after (.cyclePeriodWrite 30) { one with port := { one.port with
        phase := .data { accessAt false 0x0021 with mode := .singleField } } }).port.phase = .between
    ∧ awaitsCrc (after (.instructionPhase [0x80, 0x03, crc8 0x3C [0x80, 0x03], 0]) withCrcOn) = true := by
  refine ⟨⟨rfl, rfl, rfl⟩, ⟨rfl, by decide, rfl⟩, rfl, rfl, by decide, rfl, ?_⟩
  decide +kernel

/-- The places of a frame before its data phase: opened without a byte, in RSTN, behind a field, after the first byte, and before the host CRC byte. -/
theorem witness_InstructionPhaseOpensAnAccess_places :
    ((after (.instructionPhase []) one).port.phase = .instruction none one.statusBytes)
    ∧ (after (.instructionPhase []) (after .resetPinAssert one)).port.phase = .disregard none
    ∧ (after (.instructionPhase [0x80, 0x03, 0]) (singleField one)).port.phase = .between
    ∧ (after (.instructionPhase [0x80]) one).port.phase = .instruction (some 0x80) one.statusBytes
    ∧ (after (.instructionPhase [0x80, 0x03]) withCrcOn).port.phase = .hostCrc 0x80 0x03 false := by
  decide +kernel

/-- An access of another part in single-field mode: in a field of two bytes, and before the CRC byte behind it. -/
def otherPart : Access := { accessAt true 0x0006 with taken := false, mode := .singleField }

theorem witness_InstructionPhaseOpensAnAccess_otherPart :
    ((after (.instructionPhase [0xA0, 0x06]) (singleField one)).port.phase
      = .data { otherPart with sharedOnly := true })
    ∧ otherPart.taken = false ∧ otherPart.mode = .singleField ∧ otherPart.transfer = none
    ∧ awaitsCrc (after (.instructionPhase [0xA0, 0x03, 0, 0]) (singleField withCrcOn)) = true
    ∧ (singleField withCrcOn).port.softReset = false := by
  decide +kernel

/-- Every place of a frame at which CSN can rise, and a chip code bit of a cut first byte that is the part's and one that is not. -/
theorem witness_CsnRiseEndsTheFrame_places :
    (one.port.phase = .idle ∧ one.resetHeld = false ∧ one.port.softReset = false)
    ∧ (after (.instructionPhase [0x80, 0x03, 0]) (singleField one)).port.phase = .between
    ∧ (after (.instructionPhase []) one).port.phase = .instruction none one.statusBytes
    ∧ (one.port.chipCode.getLsbD 1 = false ∧ [true, false][1]? = some false ∧ [true, true, false][1]? = some true)
    ∧ (after (.instructionPhase [0x80]) one).port.phase = .instruction (some 0x80) one.statusBytes
    ∧ (after (.instructionPhase [0x80, 0x03]) withCrcOn).port.phase = .hostCrc 0x80 0x03 false
    ∧ awaitsCrc (after (.instructionPhase [0x80, 0x03, crc8 0x3C [0x80, 0x03], 0]) withCrcOn) = true
    ∧ (after (.instructionPhase [0xA0, 0x03]) one).port.phase = .disregard none
    ∧ (after (.instructionPhase [0x80, 0x03, 0]) withCrcOn).port.phase = .disregard (some (accessAt true 0x0003))
    ∧ (after .resetPinAssert one).resetHeld = true := by
  decide +kernel

theorem witness_CsnRiseEndsTheFrame :
    ((inAccess true 0x0006).resetHeld = false ∧ (inAccess true 0x0006).port.phase = .data (accessAt true 0x0006)
      ∧ (accessAt true 0x0006).taken = true ∧ (accessAt true 0x0006).duringClear = false
      ∧ (inAccess true 0x0006).port.softReset = false ∧ (accessAt true 0x0006).transfer.isSome = false)
    ∧ (readAccess .takeField [5, 1, 1]).transfer.isSome = true
    ∧ ((after (.softResetRequest 0xC0) one).resetHeld = false ∧ (after (.softResetRequest 0xC0) one).port.softReset = true
        ∧ ∃ a, (after (.softResetRequest 0xC0) one).port.phase = .disregard (some a)) := by
  refine ⟨⟨rfl, rfl, rfl, rfl, rfl, rfl⟩, rfl, rfl, rfl, ⟨_, rfl⟩⟩

theorem witness_ResetsRestoreResetValues : State.reset.resetHeld = false ∧ State.reset.clearing = true := ⟨rfl, rfl⟩

/-- The part in its start-up clear, the CRC kept on by a soft reset, and in a read of the take field that began in the clear. -/
def clearingWithCrc : State := { State.reset with port := { State.reset.port with crcOn := true } }

def clearingAccess : Access := { readAccess .takeField [0, 0, 0] with duringClear := true }

theorem witness_AccessDuringTheClearIsNotReady :
    (State.reset.accessInClear = true ∧ writtenField (.loopLengthWrite 3) = some .loopLength
      ∧ State.reset.FieldNext .loopLength false)
    ∧ (clearingWithCrc.accessInClear = true ∧ clearingWithCrc.FieldNext (fieldAt 0x0021) false
        ∧ (fieldAt 0x0021).base = 0x0021 ∧ clearingWithCrc.fieldCrcMatches (fieldAt 0x0021) [30] 0 = false)
    ∧ (State.reset.FieldNext .takeField true ∧ State.reset.FieldNext .damagedCount true)
    ∧ ({ State.reset with port := { State.reset.port with phase := .data clearingAccess } } : State).Reading .takeField clearingAccess
        (readOn .takeField [0, 0, 0]) :=
  ⟨⟨rfl, rfl, fieldNext rfl⟩, ⟨rfl, fieldNext (by decide +kernel), by decide, by decide +kernel⟩, ⟨fieldNext rfl, fieldNext rfl⟩,
    ⟨rfl, rfl, rfl, rfl, rfl, rfl, rfl, rfl, rfl, by decide, by decide, rfl, by decide, by decide⟩⟩

/-! ### The laws -/

/-- `one` with an operation waiting. -/
def queued (c : Instr) (s : State) : State := { s with pending := [c] }

theorem witness_CycleAndScheduleLawsAreKept :
    ((queued .cycleTimerExpiry (running one)).CycleLaw ∧ (queued .cycleTimerExpiry (running one)).SettingsLaw
      ∧ (queued .cycleTimerExpiry (running one)).ScheduleLaw)
    ∧ ∃ t, step (queued .cycleTimerExpiry (running one)) = .next t ∧ t.cycle.counter = 1001 := by
  refine ⟨⟨?_, ?_, ?_⟩, _, rfl, ?_⟩
  · unfold State.CycleLaw
    decide
  · unfold State.SettingsLaw
    decide
  · unfold State.ScheduleLaw
    decide
  · decide +kernel

theorem delivery_record17 : record17.Delivery := ⟨by decide, by decide⟩

theorem witness_DeliveryLawIsKept :
    (queued (.poll (poll17 true none none)) (running one)).DeliveryLaw
    ∧ ∃ t, step (queued (.poll (poll17 true none none)) (running one)) = .next t ∧ t.line.answer.isSome = true := by
  refine ⟨⟨?_, ?_⟩, _, rfl, ?_⟩
  · intro i r hr
    have hr' : r ∈ ((holding record17 bound17).slot i).record := hr
    rw [slot_holding] at hr'
    split at hr'
    · have : r = record17 := by simpa using hr'.symm
      subst this
      exact delivery_record17
    · cases hr'
  · intro a ha
    cases ha
  · decide +kernel

theorem witness_NodeTableLawsAreKept :
    (queued .cycleTimerExpiry (running one)).NodeLaw ∧ (queued .cycleTimerExpiry (running one)).IdentityLaw
    ∧ (queued .cycleTimerExpiry (running one)).RangeLaw ∧ (queued .cycleTimerExpiry (running one)).CascadeLaw
    ∧ ∃ t, step (queued .cycleTimerExpiry (running one)) = .next t ∧ (t.node 16).silence = 1 := by
  refine ⟨nodeLaw_holding record17 lawful_bound17, identityLaw_holding record17 bound17, ⟨?_, ?_, ?_, ?_⟩, trivial, _, rfl, ?_⟩
  · decide
  · decide
  · decide
  · decide +kernel
  · decide +kernel

theorem witness_AttentionLawIsKept :
    (queued .takeFieldLatch attending).AttentionLaw ∧ ∃ t, step (queued .takeFieldLatch attending) = .next t := by
  refine ⟨⟨?_, ?_, ?_⟩, _, rfl⟩
  · unfold State.recordReasons
    intro i
    rw [show (queued .takeFieldLatch attending).slot i = (holding { record17 with reasons := ⟨true, false, false⟩ } bound17).slot i
      from rfl, slot_holding]
    by_cases h : i = 5 <;> simp [h, queued, attending, RecordReasons.isEmpty, RecordReasons.none]
  · intro n
    rw [show (queued .takeFieldLatch attending).node n = (holding { record17 with reasons := ⟨true, false, false⟩ } bound17).node n
      from rfl, node_holding]
    by_cases h : n = 16 <;>
      simp [h, queued, attending, bound17, NodeEntry.reset, NodeReasons.isEmpty, NodeReasons.none]
  · simp [queued, attending]

theorem witness_LineLawIsKept :
    (queued .answerGapExpiry (gapped (.wait key17 5 1 false))).LineLaw
    ∧ ∃ t, step (queued .answerGapExpiry (gapped (.wait key17 5 1 false))) = .next t ∧ t.driverEnabled = true :=
  ⟨⟨rfl, rfl⟩, _, rfl, rfl⟩

theorem countRecords_one (p : Record → Bool) (e : NodeEntry) :
    (holding record17 e).countRecords p = if p record17 then 1 else 0 := by
  have h : (holding record17 e).directory.slots.toList
      = List.replicate 5 ⟨0, none⟩ ++ [⟨1, some record17⟩] ++ List.replicate 378 ⟨0, none⟩ := by
    show ((Vector.replicate 384 (⟨0, none⟩ : Slot)).set 5 ⟨1, some record17⟩).toList = _
    decide +kernel
  unfold State.countRecords
  rw [h, List.countP_append, List.countP_append, List.countP_replicate, List.countP_replicate]
  simp

theorem witness_DirectoryLawsAreKept :
    (queued .retire (withArg 5 0 1 one)).IndexLaw ∧ (queued .retire (withArg 5 0 1 one)).CountLaw
    ∧ ∃ t, step (queued .retire (withArg 5 0 1 one)) = .next t ∧ t.directory.occupancy = 0 := by
  refine ⟨indexLaw_holding record17 bound17, ⟨(countRecords_one (fun _ => true) bound17).symm, ?_⟩, _, rfl, ?_⟩
  · intro n
    show ((holding record17 bound17).node n).recordCount = (holding record17 bound17).countRecords (fun r => r.node == n)
    rw [countRecords_one, node_holding]
    by_cases h : n = 16
    · subst h
      rfl
    · have : (record17.node == n) = false := by
        simp [record17]
        exact fun c => h c.symm
      simp [h, this, NodeEntry.reset]
  · decide +kernel

theorem witness_FramesOnTheLineAreReadBack :
    one.Listening ∧ 12 ≤ (List.replicate 12 (0 : Byte)).length ∧ (List.replicate 64 (0xFB : Byte)).length ≤ 64 :=
  ⟨⟨rfl, rfl⟩, by decide, by decide⟩

end Sys2Proof.Tests
end

section
/-! PROOFS. The directory commands LOOKUP, READ SLOT, INSERT, AMEND and RETIRE (spec/01, R10 to R19): what each command does in each of its cases, and the statements about its row. -/

namespace Sys2Proof.Proofs.DirectoryCommands

open Sys2Proof.Machine Sys2Proof.Laws

/-! ## The cases of each command

Each lemma names the check that decides the case and gives the state in which the command ends, for every state of the part. -/

/-! ### LOOKUP (R10) -/

theorem cmdLookup_badArgument {s : State} (h : ¬ s.ArgKeyInRange) : s.cmdLookup = s.badArgument := by
  simp only [State.cmdLookup, argKey_eq_none.2 h]

theorem cmdLookup_found {s : State} (hl : s.IndexLaw) {k : Key} {i : SlotNo} {r : Record} (hk : s.ArgKey k)
    (hr : (s.slot i).record = some r) (hkey : r.key = k) :
    s.cmdLookup = (s.writeImage r.image).finish .done i.val r.generation 0 := by
  simp only [State.cmdLookup, argKey_eq_some.2 hk, (lookupKey_some hl).2 ⟨hr, hkey⟩]

theorem cmdLookup_notFound {s : State} (hl : s.IndexLaw) {k : Key} (hk : s.ArgKey k) (ha : s.KeyAbsent k) :
    s.cmdLookup = s.finish .notFound 0 0 0 := by
  simp only [State.cmdLookup, argKey_eq_some.2 hk, (lookupKey_none hl).2 ha]

/-! ### READ SLOT (R11) -/

theorem cmdReadSlot_badArgument {s : State} (h : 384 ≤ s.command.argWord.toNat) : s.cmdReadSlot = s.badArgument := by
  simp only [State.cmdReadSlot, slotNo?_eq_none.2 h]

theorem cmdReadSlot_occupied {s : State} {i : SlotNo} {r : Record} (hi : s.command.argWord.toNat = i.val)
    (hr : (s.slot i).record = some r) :
    s.cmdReadSlot = (s.writeImage r.image).finish .done i.val r.generation 0 := by
  simp only [State.cmdReadSlot, slotNo?_eq_some.2 hi, hr]

theorem cmdReadSlot_empty {s : State} {i : SlotNo} (hi : s.command.argWord.toNat = i.val)
    (hr : (s.slot i).record = none) :
    s.cmdReadSlot =
      (s.writeImage (emptySlotImage (s.slot i).generation)).finish .emptySlot i.val (s.slot i).generation 0 := by
  simp only [State.cmdReadSlot, slotNo?_eq_some.2 hi, hr]

/-! ### INSERT (R12) -/

theorem cmdInsert_badArgument {s : State} (h : ¬ s.InsertArgumentsGood) : s.cmdInsert = s.badArgument := by
  simp only [State.cmdInsert, insertArguments_none.2 h]

theorem cmdInsert_noNode {s : State} (hg : s.InsertArgumentsGood) {k : Key} (hk : s.ArgKey k)
    (hn : (s.node k.node).state = .free) : s.cmdInsert = s.finish .noNode 0 0 0 := by
  simp only [State.cmdInsert, insertArguments_some hg hk, hn]

theorem cmdInsert_nodeRetiring {s : State} (hg : s.InsertArgumentsGood) {k : Key} (hk : s.ArgKey k)
    (hn : (s.node k.node).state = .retiring) : s.cmdInsert = s.finish .nodeRetiring 0 0 0 := by
  simp only [State.cmdInsert, insertArguments_some hg hk, hn]

theorem insertRecord_keyInUse {s : State} (hl : s.IndexLaw) {a : InsertArguments} {i : SlotNo} {r : Record}
    (hr : (s.slot i).record = some r) (hkey : r.key = a.key) :
    s.insertRecord a = (s.writeImage r.image).finish .keyInUse i.val r.generation 0 := by
  simp only [State.insertRecord, (lookupKey_some hl).2 ⟨hr, hkey⟩]

theorem insertRecord_directoryFull {s : State} (hl : s.IndexLaw) {a : InsertArguments} (ha : s.KeyAbsent a.key)
    (hfull : ∀ i : SlotNo, (s.slot i).record ≠ none) : s.insertRecord a = s.finish .directoryFull 0 0 0 := by
  simp only [State.insertRecord, (lookupKey_none hl).2 ha, lowestEmpty_none.2 hfull]

/-! ### AMEND (R14 to R17) -/

/-- R15, R16: the record after AMEND with the window `w`, each field from the record as it stood. -/
def amendedRecord (w : WindowArguments) (r : Record) : Record :=
  let sel := w.select.getLsbD
  let live := sel 2 || (sel 6 && r.halted)
  { r with
    stagedLevel := if sel 0 then some w.first else if sel 1 then none else r.stagedLevel
    group := if sel 3 then w.group.setWidth 3 else r.group
    reportPermitted := if sel 4 then w.permit == 1 else r.reportPermitted
    liveLevel := if sel 2 then some w.second else r.liveLevel
    halted := if sel 5 then true else if sel 6 then false else r.halted
    liveSeq := if live then !r.liveSeq else r.liveSeq
    sent := if live then false else r.sent
    delivered := if live then false else r.delivered }

theorem selected_group {s : State} (h : ¬ s.AmendArgumentsBad) (old : BitVec 3) :
    (if s.command.window.select.getLsbD 3 then (group? s.command.window.group).getD 0 else old) =
      if s.command.window.select.getLsbD 3 then s.command.window.group.setWidth 3 else old := by
  split
  · next hsel =>
    have hrange : s.command.window.group.toNat ≤ 7 :=
      Nat.le_of_not_lt fun hlt => h (by simp only [State.AmendArgumentsBad, hsel, hlt]; simp)
    rw [group?_eq hrange, Option.getD_some]
  · rfl

theorem selected_permit {s : State} (h : ¬ s.AmendArgumentsBad) (old : Bool) :
    (if s.command.window.select.getLsbD 4 then (yesNo? s.command.window.permit).getD false else old) =
      if s.command.window.select.getLsbD 4 then s.command.window.permit == 1 else old := by
  split
  · next hsel =>
    have hrange : s.command.window.permit.toNat ≤ 1 :=
      Nat.le_of_not_lt fun hlt => h (by simp only [State.AmendArgumentsBad, hsel, hlt]; simp)
    rw [yesNo?_eq hrange, Option.getD_some]
  · rfl

/-- R15, R16: the selected changes, and the live change in the three fields that it touches. -/
theorem apply_eq (a : AmendArguments) (r : Record) :
    a.apply r =
      { a.change r with
        liveSeq := if a.isLiveChange r then !r.liveSeq else r.liveSeq
        sent := if a.isLiveChange r then false else r.sent
        delivered := if a.isLiveChange r then false else r.delivered } := by
  unfold AmendArguments.apply
  cases a.isLiveChange r <;> rfl

/-- R14 to R16: when the arguments pass, applying them to a record gives the amended record. -/
theorem amendArguments_apply {s : State} (h : ¬ s.AmendArgumentsBad) :
    ∃ a, s.command.amendArguments = some a ∧ ∀ r, a.apply r = amendedRecord s.command.window r := by
  refine ⟨_, amendArguments_some h, fun r => ?_⟩
  simp only [apply_eq, AmendArguments.change, selected_group h, selected_permit h]
  rfl

theorem cmdAmend_badArgument {s : State} (h : s.AmendArgumentsBad) : s.cmdAmend = s.badArgument := by
  unfold State.cmdAmend
  rcases amendArgumentsBad_iff.1 h with hslot | hargs
  · simp only [slotNo?_eq_none.2 hslot]
  · cases slotNo? s.command.argWord <;> simp only [hargs]

theorem cmdAmend_pass {s : State} (h : ¬ s.AmendArgumentsBad) {i : SlotNo} (hi : s.command.argWord.toNat = i.val) :
    ∃ a, (∀ r, a.apply r = amendedRecord s.command.window r) ∧ s.cmdAmend = s.amendSlot i a := by
  obtain ⟨a, ha, happly⟩ := amendArguments_apply h
  exact ⟨a, happly, by simp only [State.cmdAmend, slotNo?_eq_some.2 hi, ha]⟩

theorem cmdAmend_emptySlot {s : State} (h : ¬ s.AmendArgumentsBad) {i : SlotNo}
    (hi : s.command.argWord.toNat = i.val) (hr : (s.slot i).record = none) :
    s.cmdAmend = s.finish .emptySlot i.val (s.slot i).generation 0 := by
  obtain ⟨a, -, hcmd⟩ := cmdAmend_pass h hi
  simp only [hcmd, State.amendSlot, hr]

theorem cmdAmend_stale {s : State} (h : ¬ s.AmendArgumentsBad) {i : SlotNo} {r : Record}
    (hi : s.command.argWord.toNat = i.val) (hr : (s.slot i).record = some r)
    (hgen : r.generation ≠ s.command.argByte 2) : s.cmdAmend = s.finish .stale i.val r.generation 0 := by
  obtain ⟨a, -, hcmd⟩ := cmdAmend_pass h hi
  simp only [hcmd, State.amendSlot, hr, if_pos hgen]

theorem cmdAmend_done {s : State} (h : ¬ s.AmendArgumentsBad) {i : SlotNo} {r : Record}
    (hi : s.command.argWord.toNat = i.val) (hr : (s.slot i).record = some r)
    (hgen : r.generation = s.command.argByte 2) :
    s.cmdAmend =
      ((s.setRecord i (amendedRecord s.command.window r)).writeImage (amendedRecord s.command.window r).image).finish
        .done i.val r.generation 0 := by
  obtain ⟨a, happly, hcmd⟩ := cmdAmend_pass h hi
  simp only [hcmd, State.amendSlot, hr, happly, if_neg (not_not_intro hgen)]

/-! ### RETIRE (R18, R19, R70) -/

theorem retireRecord_of_stays {s : State} {i : SlotNo} {r : Record} (hr : (s.slot i).record = some r)
    (hstays : (s.node r.node).state ≠ .retiring ∨ 1 < (s.node r.node).recordCount) :
    s.retireRecord i r.node = s.afterRemoval i r := by
  have hgone : ¬ (s.removeRecord i).lastRecordGone r.node = true := by
    rw [lastRecordGone_removeRecord hr]
    rintro ⟨hretiring, hcount⟩
    rcases hstays with hne | hlt
    · exact hne hretiring
    · omega
  rw [State.retireRecord, if_neg hgone, removeRecord_eq hr]

theorem retireRecord_of_last {s : State} {i : SlotNo} {r : Record} (hr : (s.slot i).record = some r)
    (hretiring : (s.node r.node).state = .retiring) (hlast : (s.node r.node).recordCount = 1) :
    s.retireRecord i r.node = (s.afterRemoval i r).afterRelease r.node := by
  have hgone : (s.removeRecord i).lastRecordGone r.node = true :=
    (lastRecordGone_removeRecord hr).2 ⟨hretiring, by rw [hlast]⟩
  rw [State.retireRecord, if_pos hgone, removeRecord_eq hr, freeNode_eq]

theorem cmdRetire_badArgument {s : State} (h : 384 ≤ s.command.argWord.toNat) : s.cmdRetire = s.badArgument := by
  simp only [State.cmdRetire, slotNo?_eq_none.2 h]

theorem cmdRetire_emptySlot {s : State} {i : SlotNo} (hi : s.command.argWord.toNat = i.val)
    (hr : (s.slot i).record = none) : s.cmdRetire = s.finish .emptySlot i.val (s.slot i).generation 0 := by
  simp only [State.cmdRetire, slotNo?_eq_some.2 hi, hr]

theorem cmdRetire_stale {s : State} {i : SlotNo} {r : Record} (hi : s.command.argWord.toNat = i.val)
    (hr : (s.slot i).record = some r) (hgen : r.generation ≠ s.command.argByte 2) :
    s.cmdRetire = s.finish .stale i.val r.generation 0 := by
  simp only [State.cmdRetire, slotNo?_eq_some.2 hi, hr, if_pos hgen]

theorem cmdRetire_done {s : State} {i : SlotNo} {r : Record} (hi : s.command.argWord.toNat = i.val)
    (hr : (s.slot i).record = some r) (hgen : r.generation = s.command.argByte 2) :
    s.cmdRetire = ((s.retireRecord i r.node).writeImage r.image).finish .done i.val r.generation 0 := by
  simp only [State.cmdRetire, slotNo?_eq_some.2 hi, hr, if_neg (not_not_intro hgen)]

/-! ## The record image as bytes (R7, spec/10) -/

theorem marks_seven (b0 b1 b2 b3 b4 b5 b6 : Bool) :
    marks [b0, b1, b2, b3, b4, b5, b6] =
      0#1 ++ BitVec.ofBool b6 ++ BitVec.ofBool b5 ++ BitVec.ofBool b4 ++ BitVec.ofBool b3
        ++ BitVec.ofBool b2 ++ BitVec.ofBool b1 ++ BitVec.ofBool b0 := by
  revert b0 b1 b2 b3 b4 b5 b6
  decide

/-- spec/10: byte 0 of the record image, with the state code of R6 in bits 1 and 2. -/
theorem stateByte_eq (halted live liveSeq sent delivered reportSeq : Bool) :
    marks ([true] ++ (if halted then RecordState.halted else if live then .live else .pending).codeBits
        ++ [liveSeq, sent, delivered, halted, reportSeq]) =
      BitVec.ofBool reportSeq ++ BitVec.ofBool halted ++ BitVec.ofBool delivered ++ BitVec.ofBool sent
        ++ BitVec.ofBool liveSeq ++ (if halted then 2#2 else if live then 1#2 else 0#2) ++ 1#1 := by
  revert halted live liveSeq sent delivered reportSeq
  decide

/-- R7, spec/10: the sixteen bytes of the image of an occupied slot. -/
def recordBytes (r : Record) : Vector Byte 16 :=
  let bit : Bool → BitVec 1 := BitVec.ofBool
  let lo : Option Word16 → Byte := fun w => (w.getD 0).extractLsb' 0 8
  let hi : Option Word16 → Byte := fun w => (w.getD 0).extractLsb' 8 8
  #v[bit r.reportSeq ++ bit r.halted ++ bit r.delivered ++ bit r.sent ++ bit r.liveSeq
      ++ (if r.halted then 2#2 else if r.liveLevel.isSome then 1#2 else 0#2) ++ 1#1,
    BitVec.ofNat 8 (nodeAddress r.node),
    bit r.reportPermitted ++ r.group ++ r.channel,
    r.generation,
    0#1 ++ bit r.reasons.pendingPoll ++ bit r.reasons.reported ++ bit r.reasons.delivered
      ++ bit r.lastPollCycle.isSome ++ bit r.reportValue.isSome ++ bit r.stagedLevel.isSome
      ++ bit r.liveLevel.isSome,
    0, lo r.liveLevel, hi r.liveLevel, lo r.stagedLevel, hi r.stagedLevel, lo r.reportValue, hi r.reportValue,
    lo r.lastPollCycle, hi r.lastPollCycle, 0, 0]

theorem image_eq_recordBytes (r : Record) : r.image = recordBytes r := by
  simp only [Record.image, Record.state, stateByte_eq, marks_seven]
  rfl

/-! ## The statements

The row of a command leads to what the command does on the state with its code taken (`leads_of_command`). -/

/-- R133: the state with the code of the command taken, on which the command then acts. -/
def withCode (s : State) (code : Byte) : State := s.setCommand { s.command with code := code }

/-- Settles O4: the three cases of the key in the command argument. -/
theorem lookupFindsTheKey : Obligations.LookupFindsTheKey := by
  intro s hready hindex
  have leads {t : State} : (withCode s 0x01).cmdLookup = t → Leads s .lookup t := leads_of_command hready rfl rfl rfl
  refine ⟨fun hbad => leads ?_, fun k i r hk hr hkey => leads ?_, fun k hk habsent => leads ?_⟩
  · exact cmdLookup_badArgument (s := withCode s 0x01) hbad
  · exact cmdLookup_found (s := withCode s 0x01) hindex hk hr hkey
  · exact cmdLookup_notFound (s := withCode s 0x01) hindex hk habsent

/-- Settles O5: the three cases of the slot number, with the image of an occupied slot spelled out. -/
theorem readSlotReturnsTheImage : Obligations.ReadSlotReturnsTheImage := by
  intro s hready
  have leads {t : State} : (withCode s 0x02).cmdReadSlot = t → Leads s .readSlot t := leads_of_command hready rfl rfl rfl
  refine ⟨fun hbad => leads ?_, fun i r hi hr => ⟨image_eq_recordBytes r, leads ?_⟩, fun i hi hr => leads ?_⟩
  · exact cmdReadSlot_badArgument (s := withCode s 0x02) hbad
  · rw [cmdReadSlot_occupied (s := withCode s 0x02) hi hr, image_eq_recordBytes]
    rfl
  · exact cmdReadSlot_empty (s := withCode s 0x02) hi hr

/-- Settles O6: the arguments, the node entry's state, the key and the room, in this order. -/
theorem insertChecksInOrder : Obligations.InsertChecksInOrder := by
  intro s hready hindex
  have leads {t : State} : (withCode s 0x03).cmdInsert = t → Leads s .insert t := leads_of_command hready rfl rfl rfl
  refine ⟨fun hbad => leads ?_, fun hgood k hk =>
    ⟨fun hfree => leads ?_, fun hretiring => leads ?_, fun hfree hretiring => ?_⟩⟩
  · exact cmdInsert_badArgument (s := withCode s 0x03) hbad
  · exact cmdInsert_noNode (s := withCode s 0x03) hgood hk hfree
  · exact cmdInsert_nodeRetiring (s := withCode s 0x03) hgood hk hretiring
  · have hpass := cmdInsert_pass (s := withCode s 0x03) (insertArguments_some hgood hk) hfree hretiring
    refine ⟨fun i r hr hkey => leads (hpass.trans ?_), fun habsent hfull => leads (hpass.trans ?_)⟩
    · exact insertRecord_keyInUse (s := withCode s 0x03) hindex hr hkey
    · exact insertRecord_directoryFull (s := withCode s 0x03) hindex habsent hfull

/-- Settles O8: the arguments, the slot and the generation, in this order. -/
theorem amendChecksInOrder : Obligations.AmendChecksInOrder := by
  intro s hready
  have leads {t : State} : (withCode s 0x04).cmdAmend = t → Leads s .amend t := leads_of_command hready rfl rfl rfl
  refine ⟨fun hbad => leads ?_, fun hgood i hi => ⟨fun hr => leads ?_, fun r hr hgen => leads ?_⟩⟩
  · exact cmdAmend_badArgument (s := withCode s 0x04) hbad
  · exact cmdAmend_emptySlot (s := withCode s 0x04) hgood hi hr
  · exact cmdAmend_stale (s := withCode s 0x04) hgood hi hr hgen

/-- Settles O9: the record that AMEND writes is the amended record (`amendArguments_apply`). -/
theorem amendAppliesTheSelectedChanges : Obligations.AmendAppliesTheSelectedChanges := by
  intro s i r hready hgood hi hr hgen
  exact leads_of_command hready rfl rfl rfl (cmdAmend_done (s := withCode s 0x04) hgood hi hr hgen)

/-- Settles O10: the slot and the generation in this order, then the removal, with the release of a RETIRING entry by its
last record. -/
theorem retireRemovesTheRecord : Obligations.RetireRemovesTheRecord := by
  intro s hready
  have leads {t : State} : (withCode s 0x05).cmdRetire = t → Leads s .retire t := leads_of_command hready rfl rfl rfl
  refine ⟨fun hbad => leads ?_, fun i hi => ⟨fun hr => leads ?_, fun r hr => ⟨fun hgen => leads ?_, fun hgen => ?_⟩⟩⟩
  · exact cmdRetire_badArgument (s := withCode s 0x05) hbad
  · exact cmdRetire_emptySlot (s := withCode s 0x05) hi hr
  · exact cmdRetire_stale (s := withCode s 0x05) hi hr hgen
  · have hdone := cmdRetire_done (s := withCode s 0x05) hi hr hgen
    refine ⟨fun hstays => leads (hdone.trans ?_), fun hretiring hlast => leads (hdone.trans ?_)⟩
    · rw [retireRecord_of_stays (s := withCode s 0x05) hr hstays]
      rfl
    · rw [retireRecord_of_last (s := withCode s 0x05) hr hretiring hlast]
      rfl

end Sys2Proof.Proofs.DirectoryCommands
end

section
/-! PROOFS. Answering polls (spec/02): a POLL refused at the node gate (R26, R27, R31), and the send completions of the answers to POLLs (R41, R42). -/

namespace Sys2Proof.Proofs.AnsweringPolls

open Sys2Proof.Machine Sys2Proof.Laws

/-! ## The take of a POLL -/

/-- R24, R108: in LISTEN, a POLL of a node in the answer range is taken. -/
theorem exec_poll_taken {s : State} {p : PollFrame} {n : NodeNo} (hlisten : s.Listening)
    (htakes : s.TakesPolls p.address) (hn : p.address.toNat = nodeAddress n) :
    exec (.poll p) s = .next (s.takePoll n p) :=
  calc exec (.poll p) s
    _ = .next (s.arrive (Reception.begins (withCrc (pollBody p))) (·.dispatchPoll p)) := rfl
    _ = .next (s.dispatchPoll p) := by rw [arrive_listening hlisten]
    _ = .next (s.takePoll n p) := by simp only [State.dispatchPoll, pollTarget_some htakes hn]

/-- R26: the gate refuses a POLL of a FREE or OFFERED entry. -/
theorem takePoll_noNode {s : State} {n : NodeNo} (p : PollFrame)
    (h : (s.node n).state = .free ∨ (s.node n).state = .offered) :
    s.takePoll n p = s.refusePoll ⟨n, p.channel⟩ .noNode := by
  rcases h with hfree | hoffered
  · simp only [State.takePoll, hfree]
  · simp only [State.takePoll, hoffered]

/-- R27: the gate refuses a POLL of a RETIRING entry. -/
theorem takePoll_nodeRetiring {s : State} {n : NodeNo} (p : PollFrame) (h : (s.node n).state = .retiring) :
    s.takePoll n p = s.refusePoll ⟨n, p.channel⟩ .nodeRetiring := by
  simp only [State.takePoll, h]

/-- R31, R39: what a refusal writes, under the address that the POLL carried. -/
theorem refusePoll_eq (s : State) {k : Key} {address : Byte} (hk : address.toNat = nodeAddress k.node)
    (reason : RefuseReason) :
    s.refusePoll k reason =
      { s with
        stray := ⟨reason.strayKind, address, some k.channel, none⟩
        events := { s.events with stray := true }
        line := s.line.answering (.refuse k reason) } := by
  rw [(eq_addressByte_iff address k.node).2 hk]
  rfl

/-- Settles O24: the POLL is taken, the gate refuses it by the entry's state, and the refusal is `refusePoll_eq`. -/
theorem pollRefusedAtTheGate : Obligations.PollRefusedAtTheGate := by
  intro s p n hlisten htakes hn
  have htaken := exec_poll_taken hlisten htakes hn
  have hrefuse := refusePoll_eq s (k := ⟨n, p.channel⟩) hn
  refine ⟨fun hunbound => ?_, fun hretiring => ?_⟩
  · rw [htaken, takePoll_noNode p hunbound, hrefuse]
    rfl
  · rw [htaken, takePoll_nodeRetiring p hretiring, hrefuse]
    rfl

/-! ## The send completions of the answers -/

/-- R112, R114: the answer is consumed, and from LISTEN a pending beacon is taken. -/
theorem takeBeacon_consumeAnswer (s : State) :
    s.consumeAnswer.takeBeacon = { s with line := { s.line with answer := none }.resting } :=
  takeBeacon_listen rfl

/-- R41: the answer is not voided and the record agrees with it, so the record is sent. -/
theorem markSent_agreeing {s : State} {i : SlotNo} {r : Record} (hr : (s.slot i).record = some r) :
    s.markSent i r.generation r.liveSeq false = s.setRecord i { r with sent := true } := by
  simp only [State.markSent, hr, Bool.not_false, beq_self_eq_true, Bool.and_self, if_true]

/-- R41: a voided answer, an empty slot, or a record of another generation or live seq: nothing changes. -/
theorem markSent_disagreeing {s : State} {i : SlotNo} {generation : Byte} {seq voided : Bool}
    (h : voided = true ∨ ∀ r ∈ (s.slot i).record, r.generation ≠ generation ∨ r.liveSeq ≠ seq) :
    s.markSent i generation seq voided = s := by
  unfold State.markSent
  split
  · rfl
  · next r hr =>
    refine if_neg fun hagrees => ?_
    simp only [Bool.and_eq_true, Bool.not_eq_true', beq_iff_eq] at hagrees
    obtain ⟨⟨hvalid, hgeneration⟩, hseq⟩ := hagrees
    rcases h with hvoided | hdiffers
    · exact Bool.false_ne_true (hvalid.symm.trans hvoided)
    · exact (hdiffers r hr).elim (· hgeneration) (· hseq)

/-- R41: the completion of a LEVEL answer. -/
theorem exec_levelSendCompletion {s : State} {k : Key} {i : SlotNo} {generation : Byte} {seq : Bool} {level : Word16}
    {reportTaken voided : Bool}
    (h : s.answerSending = some ⟨.level k i generation seq level reportTaken, voided⟩) :
    exec .levelSendCompletion s = .next (s.consumeAnswer.markSent i generation seq voided).takeBeacon := by
  change execLevelSendCompletion s = _
  simp only [execLevelSendCompletion, h]

/-- R42: the completion of an answer that changes nothing else. -/
theorem exec_answerSendCompletion {s : State} {a : InFlight} (h : s.answerSending = some a)
    (hkind : a.answer.changesNothing = true) :
    exec .answerSendCompletion s = .next s.consumeAnswer.takeBeacon := by
  change execAnswerSendCompletion s = _
  simp only [execAnswerSendCompletion, h, hkind, if_true]

/-- R42: WAIT, HALT and REFUSE are the answers that change nothing. -/
theorem changesNothing_iff (a : Answer) :
    a.changesNothing = true ↔
      (∃ k i g t, a = .wait k i g t) ∨ (∃ k i g t, a = .halt k i g t) ∨ ∃ k reason, a = .refuse k reason := by
  cases a <;> simp [Answer.changesNothing]

/-- Settles O40: a LEVEL answer marks its record sent exactly if it still agrees with it, then the answer is consumed as
that of WAIT, HALT and REFUSE is. -/
theorem pollAnswerCompletions : Obligations.PollAnswerCompletions := by
  rintro s wire rate echoed ⟨answer, voided⟩ hheld hstate hanswer rest
  have hsending := answerSending_eq hheld hstate hanswer
  refine ⟨?_, fun hkind => ?_⟩
  · rintro k i g seq level t rfl
    have hexec := exec_levelSendCompletion hsending
    refine ⟨?_, fun hdisagrees => ?_⟩
    · rintro r rfl hr rfl rfl
      rw [hexec, markSent_agreeing (s := s.consumeAnswer) hr, takeBeacon_listen rfl]
      rfl
    · rw [hexec, markSent_disagreeing (s := s.consumeAnswer) hdisagrees, takeBeacon_consumeAnswer]
  · rw [exec_answerSendCompletion hsending ((changesNothing_iff answer).2 hkind), takeBeacon_consumeAnswer]

end Sys2Proof.Proofs.AnsweringPolls
end

section
/-! PROOFS. The node table (spec/03): READ NODE and the node image (R53, R54), the search of an ANNOUNCE for its identity (R55), an ANNOUNCE at the node table (R56, R57, R60), and the completion of an ASSIGN (R58). -/

namespace Sys2Proof.Proofs.NodeTable

open Sys2Proof.Machine Sys2Proof.Laws
open Sys2Proof.Proofs.DirectoryCommands (withCode marks_seven)
open Sys2Proof.Proofs.AnsweringPolls (takeBeacon_consumeAnswer)

/-! ## The node image as bytes (R54, spec/10) -/

theorem lowByte_append (c : BitVec 4) (o : BitVec 12) : lowByte (c ++ o) = o.extractLsb' 0 8 :=
  BitVec.extractLsb'_append_eq_of_add_le (by decide)

theorem highByte_append (c : BitVec 4) (o : BitVec 12) : highByte (c ++ o) = c ++ o.extractLsb' 8 4 :=
  calc highByte (c ++ o)
    _ = c.extractLsb' 0 4 ++ o.extractLsb' 8 4 := BitVec.extractLsb'_append_eq_ite
    _ = c ++ o.extractLsb' 8 4 := by rw [BitVec.extractLsb'_eq_self]

/-- R54, spec/10: the sixteen bytes of the image of a node entry. -/
def nodeBytes (e : NodeEntry) : Vector Byte 16 :=
  let bit : Bool → BitVec 1 := BitVec.ofBool
  let offer := BitVec.ofNat 12 (e.offerRemaining.getD 0)
  let id : Nat → Byte := fun k => (e.identity.getD 0).extractLsb' (8 * k) 8
  #v[0#3 ++ bit e.status.isSome ++ bit e.offerRemaining.isSome
      ++ (match e.state with
          | .free => 0#3
          | .offered => 1#3
          | .assigned => 2#3
          | .bound => 3#3
          | .silent => 4#3
          | .retiring => 5#3),
    0#1 ++ bit e.reasons.announced ++ bit e.reasons.status ++ bit e.reasons.unconfirmed
      ++ bit e.reasons.offerExpired ++ bit e.reasons.returned ++ bit e.reasons.silent ++ bit e.reasons.bound,
    e.status.getD 0, BitVec.ofNat 8 e.recordCount,
    offer.extractLsb' 0 8, BitVec.ofNat 4 e.confirmRemaining ++ offer.extractLsb' 8 4,
    BitVec.ofNat 8 e.silence, e.lapseLimit, id 0, id 1, id 2, id 3, id 4, id 5, id 6, id 7]

theorem image_eq_nodeBytes (e : NodeEntry) : e.image = nodeBytes e := by
  simp only [NodeEntry.image, NodeReasons.bits, marks_seven, lowByte_append, highByte_append]
  rfl

/-! ## READ NODE (R53) -/

theorem cmdReadNode_badArgument {s : State}
    (h : ¬ (1 ≤ (s.command.argByte 0).toNat ∧ (s.command.argByte 0).toNat ≤ 239)) : s.cmdReadNode = s.badArgument := by
  simp only [State.cmdReadNode, nodeNo?_eq_none.2 h]

theorem cmdReadNode_free {s : State} {n : NodeNo} (hn : (s.command.argByte 0).toNat = nodeAddress n)
    (hfree : (s.node n).state = .free) :
    s.cmdReadNode = (s.writeImage (nodeBytes (s.node n))).finish .noNode (nodeAddress n) 0 0 := by
  simp only [State.cmdReadNode, nodeNo?_eq_some.2 hn, if_pos hfree, image_eq_nodeBytes]

theorem cmdReadNode_used {s : State} {n : NodeNo} (hn : (s.command.argByte 0).toNat = nodeAddress n)
    (hused : (s.node n).state ≠ .free) :
    s.cmdReadNode = (s.writeImage (nodeBytes (s.node n))).finish .done (nodeAddress n) 0 0 := by
  simp only [State.cmdReadNode, nodeNo?_eq_some.2 hn, if_neg hused, image_eq_nodeBytes]

/-- Settles O15: the address out of range, the FREE entry and any other entry, with the image spelled out. -/
theorem readNodeReturnsTheImage : Obligations.ReadNodeReturnsTheImage := by
  intro s hready
  have leads {t : State} : (withCode s 0x11).cmdReadNode = t → Leads s .readNode t :=
    leads_of_command hready rfl rfl rfl
  refine ⟨fun hbad => leads ?_, fun n hn =>
    ⟨image_eq_nodeBytes (s.node n), fun hfree => leads ?_, fun hused => leads ?_⟩⟩
  · exact cmdReadNode_badArgument (s := withCode s 0x11) hbad
  · exact cmdReadNode_free (s := withCode s 0x11) hn hfree
  · exact cmdReadNode_used (s := withCode s 0x11) hn hused

/-! ## The search for an identity (R55) -/

/-- R55: at position `p` of the body stand three bytes 0x96 and four copies of `copy`, whose value can be an identity. -/
def PatternAt (body : List Byte) (p : Nat) (copy : List Byte) : Prop :=
  copy.length = 8
  ∧ (∃ rest, body.drop p = [0x96, 0x96, 0x96] ++ copy ++ copy ++ copy ++ copy ++ rest)
  ∧ join64 copy ≠ 0 ∧ join64 copy ≠ BitVec.allOnes 64

theorem patternHere_of_patternAt {body copy : List Byte} {p : Nat} (h : PatternAt body p copy) :
    patternHere (body.drop p) = some (join64 copy) := by
  obtain ⟨hlength, hpattern, hzero, hones⟩ := h
  exact patternHere_some.2 ⟨copy, hlength, hpattern, hzero, hones, rfl⟩

theorem patternHere_none_of_no_patternAt {body : List Byte} {p : Nat} (h : ∀ copy, ¬ PatternAt body p copy) :
    patternHere (body.drop p) = none := by
  refine Option.eq_none_iff_forall_ne_some.2 fun v hv => ?_
  obtain ⟨copy, hlength, hpattern, hzero, hones, -⟩ := patternHere_some.1 hv
  exact h copy ⟨hlength, hpattern, hzero, hones⟩

theorem searchIdentity_cons_some {b : Byte} {rest : List Byte} {v : Identity}
    (h : patternHere (b :: rest) = some v) : searchIdentity (b :: rest) = some v := by
  simp only [searchIdentity, h]

theorem searchIdentity_cons_none {b : Byte} {rest : List Byte} (h : patternHere (b :: rest) = none) :
    searchIdentity (b :: rest) = searchIdentity rest := by
  simp only [searchIdentity, h]

/-- The search answers what stands at the first position that passes. -/
theorem searchIdentity_of_first {body : List Byte} {p : Nat} {v : Identity}
    (hhere : patternHere (body.drop p) = some v) (hfirst : ∀ q < p, patternHere (body.drop q) = none) :
    searchIdentity body = some v := by
  induction body generalizing p with
  | nil =>
    rw [List.drop_nil] at hhere
    exact absurd hhere (by simp [patternHere])
  | cons b rest ih =>
    cases p with
    | zero => exact searchIdentity_cons_some hhere
    | succ p =>
      rw [searchIdentity_cons_none (hfirst 0 p.succ_pos)]
      exact ih hhere fun q hq => hfirst (q + 1) (Nat.succ_lt_succ hq)

theorem searchIdentity_none_of_nowhere {body : List Byte} (h : ∀ p, patternHere (body.drop p) = none) :
    searchIdentity body = none := by
  induction body with
  | nil => rfl
  | cons b rest ih =>
    rw [searchIdentity_cons_none (h 0)]
    exact ih fun p => h (p + 1)

/-! ## An ANNOUNCE at the node table (R55 to R57, R60) -/

/-- R108, R109: in LISTEN, an ANNOUNCE with a body of 12 to 64 bytes reaches the node table. -/
theorem exec_announce_listening {s : State} {body : List Byte} (hlisten : s.Listening) (hmin : 12 ≤ body.length)
    (hmax : body.length ≤ 64) : exec (.announce body) s = .next (s.dispatchAnnounce body) := by
  change execAnnounce body s = _
  rw [execAnnounce, arrive_listening hlisten, if_pos ⟨hmin, hmax⟩]

/-- R112, R114: in LISTEN, where no beacon is pending, a frame without an answer ends with nothing changed. -/
theorem endWithoutAnswer_listening {s : State} (hlisten : s.Listening) (hlaw : s.LineLaw) : s.endWithoutAnswer = s := by
  obtain ⟨-, hstate⟩ := hlisten
  obtain ⟨-, hbeacon, -⟩ := lineLaw_listen hstate hlaw
  exact endWithoutAnswer_listen hstate hbeacon

theorem exec_announce_noIdentity {s : State} {body : List Byte} (hlisten : s.Listening) (hlaw : s.LineLaw)
    (hmin : 12 ≤ body.length) (hmax : body.length ≤ 64) (hsearch : searchIdentity body = none) :
    exec (.announce body) s = .next s := by
  rw [exec_announce_listening hlisten hmin hmax]
  simp only [State.dispatchAnnounce, hsearch, endWithoutAnswer_listening hlisten hlaw]

/-- Settles O27: the search stops at the first position that passes; without one the ANNOUNCE has no identity. -/
theorem announceIdentityIsTheFirstPattern : Obligations.AnnounceIdentityIsTheFirstPattern := by
  intro body passes
  refine ⟨fun p copy hpasses hfirst => ?_, fun hnone => ?_⟩
  · exact searchIdentity_of_first (patternHere_of_patternAt hpasses) fun q hq =>
      patternHere_none_of_no_patternAt (hfirst q hq)
  · have hsearch : searchIdentity body = none :=
      searchIdentity_none_of_nowhere fun p => patternHere_none_of_no_patternAt (hnone p)
    exact ⟨hsearch, fun s hlisten hlaw hmin hmax => exec_announce_noIdentity hlisten hlaw hmin hmax hsearch⟩

section Dispatch

variable {s : State} {body : List Byte} {identity : Identity} {n : NodeNo}

theorem dispatchAnnounce_parked_match (hsearch : searchIdentity body = some identity)
    (hmatch : s.announced identity = some n) (hcycle : s.cycle.state = .stopped) :
    s.dispatchAnnounce body = s.wakeBy n := by
  simp only [State.dispatchAnnounce, hsearch, hmatch, hcycle]

theorem dispatchAnnounce_parked_noMatch (hsearch : searchIdentity body = some identity)
    (hmatch : s.announced identity = none) (hcycle : s.cycle.state = .stopped) :
    s.dispatchAnnounce body = s.endWithoutAnswer := by
  simp only [State.dispatchAnnounce, hsearch, hmatch, hcycle]

theorem dispatchAnnounce_match (hsearch : searchIdentity body = some identity)
    (hmatch : s.announced identity = some n) (hcycle : s.cycle.state ≠ .stopped) :
    s.dispatchAnnounce body = s.takeAnnounce n identity := by
  simp only [State.dispatchAnnounce, hsearch, hmatch]

theorem dispatchAnnounce_noMatch (hsearch : searchIdentity body = some identity)
    (hmatch : s.announced identity = none) (hcycle : s.cycle.state ≠ .stopped) :
    s.dispatchAnnounce body = s.unclaimed identity := by
  simp only [State.dispatchAnnounce, hsearch, hmatch]

end Dispatch

/-- R57: of the entries that an announce matches, all but an OFFERED one raise ANNOUNCED. -/
theorem reannounces_iff (x : NodeState) : x.reannounces = true ↔ x ≠ .free ∧ x ≠ .retiring ∧ x ≠ .offered := by
  cases x <;> simp [NodeState.reannounces]

/-- R120, R122: ANNOUNCED raised for a node, with the attention list and the take in progress. -/
theorem raiseNode_announced (s : State) (n : NodeNo) :
    s.raiseNode n announcedReason =
      { s with
        nodes := s.nodes.set n.val { s.node n with reasons := (s.node n).reasons.union announcedReason }
        attention := if (s.node n).reasons.isEmpty then s.attention ++ [.node n] else s.attention
        take := s.take.map (·.noteNode n announcedReason) } :=
  raiseNode_eq s n rfl

theorem takeAnnounce_offered {s : State} {n : NodeNo} (identity : Identity) (h : (s.node n).state = .offered) :
    s.takeAnnounce n identity = s.handOver (.assign n identity) := by
  rw [State.takeAnnounce, h]
  rfl

theorem takeAnnounce_announced {s : State} {n : NodeNo} (identity : Identity) (hfree : (s.node n).state ≠ .free)
    (hretiring : (s.node n).state ≠ .retiring) (hoffered : (s.node n).state ≠ .offered) :
    s.takeAnnounce n identity = (s.raiseNode n announcedReason).handOver (.assign n identity) := by
  rw [State.takeAnnounce, if_pos ((reannounces_iff _).2 ⟨hfree, hretiring, hoffered⟩)]

/-- R60: the wake leaves the line as it is, since no beacon is pending in LISTEN. -/
theorem wakeBy_listening {s : State} (hlisten : s.Listening) (hlaw : s.LineLaw) (n : NodeNo) :
    s.wakeBy n = (s.raiseNode n announcedReason).raise .wake := by
  rw [State.wakeBy, raiseNode_announced]
  exact endWithoutAnswer_listening hlisten hlaw

theorem unclaimed_listening {s : State} (hlisten : s.Listening) (hlaw : s.LineLaw) (identity : Identity) :
    s.unclaimed identity = s.captureStray ⟨.announceUnclaimed, 0, none, some identity⟩ :=
  endWithoutAnswer_listening (s := s.captureStray _) hlisten hlaw

/-- Settles O28: no identity, a match (parked, OFFERED, any other entry) and no match (parked or not). -/
theorem announceMeetsTheNodeTable : Obligations.AnnounceMeetsTheNodeTable := by
  intro s body hlisten hlaw hidentity hmin hmax
  have hexec := exec_announce_listening hlisten hmin hmax
  refine ⟨exec_announce_noIdentity hlisten hlaw hmin hmax, fun identity hsearch =>
    ⟨fun n hfree hretiring hholds => ?_, fun hnone => ?_⟩⟩
  · have hmatch := announced_some hidentity hfree hretiring hholds
    refine ⟨fun hstopped => ?_, fun hruns hoffered => ?_, fun hruns hoffered => ?_⟩
    · rw [hexec, dispatchAnnounce_parked_match hsearch hmatch hstopped, wakeBy_listening hlisten hlaw,
        raiseNode_announced]
      rfl
    · rw [hexec, dispatchAnnounce_match hsearch hmatch hruns, takeAnnounce_offered identity hoffered, handOver_eq]
    · rw [hexec, dispatchAnnounce_match hsearch hmatch hruns,
        takeAnnounce_announced identity hfree hretiring hoffered, handOver_eq, raiseNode_announced]
      rfl
  · have hmatch := announced_none hnone
    refine ⟨fun hstopped => ?_, fun hruns => ?_⟩
    · rw [hexec, dispatchAnnounce_parked_noMatch hsearch hmatch hstopped, endWithoutAnswer_listening hlisten hlaw]
    · rw [hexec, dispatchAnnounce_noMatch hsearch hmatch hruns, unclaimed_listening hlisten hlaw]
      rfl

/-! ## The completion of an ASSIGN (R58) -/

theorem exec_assignSendCompletion {s : State} {n : NodeNo} {identity : Identity} {voided : Bool}
    (h : s.answerSending = some ⟨.assign n identity, voided⟩) :
    exec .assignSendCompletion s = .next (s.consumeAnswer.completeAssign n identity).takeBeacon := by
  change execAssignSendCompletion s = _
  simp only [execAssignSendCompletion, h]

theorem assignable_iff (e : NodeEntry) (identity : Identity) :
    e.assignable identity = true ↔ e.state ≠ .free ∧ e.state ≠ .retiring ∧ e.identity = some identity := by
  simp [NodeEntry.assignable, and_assoc]

theorem completeAssign_matched {s : State} {n : NodeNo} {identity : Identity}
    (h : (s.node n).state ≠ .free ∧ (s.node n).state ≠ .retiring ∧ (s.node n).identity = some identity) :
    s.completeAssign n identity =
      s.setNode n { s.node n with state := .assigned, confirmRemaining := 8, silence := 0 } := by
  rw [State.completeAssign, if_pos ((assignable_iff _ _).2 h)]
  rfl

theorem completeAssign_unmatched {s : State} {n : NodeNo} {identity : Identity}
    (h : ¬ ((s.node n).state ≠ .free ∧ (s.node n).state ≠ .retiring ∧ (s.node n).identity = some identity)) :
    s.completeAssign n identity = s := by
  rw [State.completeAssign, if_neg (mt (assignable_iff _ _).1 h)]

/-- Settles O41: the entry is assigned exactly if it still holds the identity carried, and then a pending beacon is taken. -/
theorem assignCompletionAssigns : Obligations.AssignCompletionAssigns := by
  intro s wire rate echoed n identity voided hheld hstate hanswer rest matched
  have hexec := exec_assignSendCompletion (answerSending_eq hheld hstate hanswer)
  refine ⟨fun hmatched => ?_, fun hunmatched => ?_⟩
  · rw [hexec, completeAssign_matched (s := s.consumeAnswer) hmatched, takeBeacon_listen rfl]
    rfl
  · rw [hexec, completeAssign_unmatched (s := s.consumeAnswer) hunmatched, takeBeacon_consumeAnswer]

end Sys2Proof.Proofs.NodeTable
end

section
/-! PROOFS. The load schedule (spec/04): the command SCHEDULE with its checks, the merge and the append (R79, R80). -/

namespace Sys2Proof.Proofs.LoadSchedule

open Sys2Proof.Machine Sys2Proof.Laws
open Sys2Proof.Proofs.DirectoryCommands (withCode)

theorem ahead_iff (target counter : Word16) :
    ahead target counter = true ↔ 1 ≤ (target - counter).toNat ∧ (target - counter).toNat ≤ 32767 := by
  simp only [ahead, Bool.and_eq_true, decide_eq_true_eq]

/-! ## SCHEDULE (R79, R80)

Each lemma names the check that decides the case and gives the state in which the command ends. -/

section CmdSchedule

variable {s : State}

theorem cmdSchedule_pastDue (h : ¬ ahead s.command.argWord s.cycle.counter = true) :
    s.cmdSchedule = s.finish .pastDue 0 0 s.schedule.length := by
  simp only [State.cmdSchedule, h, Bool.not_false, if_true]

theorem cmdSchedule_badArgument (h : ahead s.command.argWord s.cycle.counter = true)
    (hmask : s.command.argByte 2 = 0) : s.cmdSchedule = s.finish .badArgument 0 0 s.schedule.length := by
  simp only [State.cmdSchedule, h, Bool.not_true, Bool.false_eq_true, if_false, if_pos hmask]

theorem cmdSchedule_merges (hlaw : s.ScheduleLaw) (h : ahead s.command.argWord s.cycle.counter = true)
    (hmask : s.command.argByte 2 ≠ 0) {p : Nat} {e : ScheduleEntry} (he : s.schedule[p]? = some e)
    (htarget : e.target = s.command.argWord) :
    s.cmdSchedule =
      (s.setSchedule (s.schedule.set p ⟨s.command.argWord, e.mask ||| s.command.argByte 2⟩)).finish
        .done p 0 s.schedule.length := by
  obtain ⟨-, -, hnodup⟩ := id hlaw
  simp only [State.cmdSchedule, h, Bool.not_true, Bool.false_eq_true, if_false, if_neg hmask,
    schedulePlace_some hlaw he htarget, map_merge hnodup he htarget]

theorem cmdSchedule_appends (h : ahead s.command.argWord s.cycle.counter = true) (hmask : s.command.argByte 2 ≠ 0)
    (habsent : ∀ e ∈ s.schedule, e.target ≠ s.command.argWord) (hroom : s.schedule.length < 6) :
    s.cmdSchedule =
      (s.setSchedule (s.schedule ++ [⟨s.command.argWord, s.command.argByte 2⟩])).finish
        .done s.schedule.length 0 (s.schedule.length + 1) := by
  have hdepth : s.schedule.length < Config.scheduleDepth := hroom
  simp only [State.cmdSchedule, h, Bool.not_true, Bool.false_eq_true, if_false, if_neg hmask,
    schedulePlace_none.2 habsent, if_pos hdepth]

theorem cmdSchedule_full (h : ahead s.command.argWord s.cycle.counter = true) (hmask : s.command.argByte 2 ≠ 0)
    (habsent : ∀ e ∈ s.schedule, e.target ≠ s.command.argWord) (hfull : s.schedule.length = 6) :
    s.cmdSchedule = s.finish .scheduleFull 0 0 6 := by
  have hdepth : ¬ 6 < Config.scheduleDepth := Nat.lt_irrefl 6
  simp only [State.cmdSchedule, h, Bool.not_true, Bool.false_eq_true, if_false, if_neg hmask,
    schedulePlace_none.2 habsent, hfull, if_neg hdepth]

end CmdSchedule

/-- Settles O19: the target and the mask are checked in this order, then a held target merges, and another is appended
if there is room. -/
theorem scheduleMergesOrAppends : Obligations.ScheduleMergesOrAppends := by
  intro s hready hlaw target mask held isAhead
  have leads {t : State} : (withCode s 0x22).cmdSchedule = t → Leads s .schedule t :=
    leads_of_command hready rfl rfl rfl
  have hiff : ahead target s.cycle.counter = true ↔ isAhead := ahead_iff target s.cycle.counter
  refine ⟨fun hpast => leads ?_, fun h hmask => leads ?_, fun h hmask =>
    ⟨fun p e he htarget => leads ?_, fun habsent => ⟨fun hroom => leads ?_, fun hfull => leads ?_⟩⟩⟩
  · exact cmdSchedule_pastDue (s := withCode s 0x22) (mt hiff.1 hpast)
  · exact cmdSchedule_badArgument (s := withCode s 0x22) (hiff.2 h) hmask
  · exact cmdSchedule_merges (s := withCode s 0x22) hlaw (hiff.2 h) hmask he htarget
  · exact cmdSchedule_appends (s := withCode s 0x22) (hiff.2 h) hmask habsent hroom
  · exact cmdSchedule_full (s := withCode s 0x22) (hiff.2 h) hmask habsent hfull

end Sys2Proof.Proofs.LoadSchedule
end

section
/-! PROOFS. The command unit (spec/08): ABORT while IDLE and while BUSY (R138, R139), codes that name no command (R140), and codes written while BUSY (R133). -/

namespace Sys2Proof.Proofs.CommandUnit

open Sys2Proof.Machine Sys2Proof.Laws

/-! ## Rows that write a command code

A row of a command is a write of its code to the command code field, which the port takes whether the command unit is
IDLE or BUSY. -/

/-- The row is a write of this code to the command code field. -/
def WritesCode (i : Instr) (code : Byte) : Prop :=
  writtenField i = some .commandCode ∧ ∀ s : State, exec i s = .next (s.writeField .commandCode [code])

theorem writesCode_abort : WritesCode .abort abortCode := ⟨rfl, fun _ => rfl⟩

theorem writesCode_badCommand (code : Byte) : WritesCode (.badCommand code) code := ⟨rfl, fun _ => rfl⟩

/-- Each command but ABORT has a code of its own, which is not the code of ABORT. -/
theorem exists_writesCode_of_command {i : Instr}
    (h : i ∈ [.lookup, .readSlot, .insert, .amend, .retire, .find, .readNode, .offer, .retireNode, .load, .schedule,
      .unschedule]) : ∃ code, WritesCode i code ∧ code ≠ abortCode := by
  fin_cases h <;> exact ⟨_, ⟨rfl, fun _ => rfl⟩, by decide⟩

theorem ne_abortCode_of_unknown {code : Byte} (h : code ∉ commandCodes) : code ≠ abortCode :=
  fun heq => h (heq ▸ by decide)

/-- Unlike `leads_of_code`, it asks nothing of the command unit. -/
theorem leads_of_writesCode {s : State} {i : Instr} {code : Byte} (hready : s.HostReady .commandCode false)
    (hi : WritesCode i code) : Leads s i (s.writeCommandCode code) :=
  leads_of_write (f := .commandCode) (by unfold Genuine; decide) hready rfl rfl rfl (by decide) hi.1 (hi.2 s)

/-! ## What the written code does -/

theorem writeCommandCode_abort (s : State) : s.writeCommandCode abortCode = s.abort := rfl

/-- R133: every code but that of ABORT, known or not, is refused while BUSY. -/
theorem writeCommandCode_busy {s : State} (h : s.command.state ≠ .idle) {code : Byte} (hcode : code ≠ abortCode) :
    s.writeCommandCode code = s.flag .commandRefused := by
  simp only [State.writeCommandCode, takeCommand_busy (busy_of_ne_idle h), if_neg hcode, ite_self]

section Abort

variable {s : State}

theorem abort_idle (h : s.command.state = .idle) : s.abort = s.ended 0x3F s.command.image ⟨.idle, 0, 0, 0⟩ := by
  simp only [State.abort, h, finish_eq]
  rfl

theorem abort_finding {visited : Nat} (h : s.command.state = .finding visited) :
    s.abort = s.ended 0x3F s.command.image ⟨.aborted, s.command.scan.val, 0, visited⟩ := by
  simp only [State.abort, h, finish_eq]
  rfl

theorem abort_cascading {n : NodeNo} {removed : Nat} (h : s.command.state = .cascading n removed) :
    s.abort = s.ended 0x3F s.command.image ⟨.aborted, s.command.scan.val, 0, removed⟩ := by
  simp only [State.abort, h, finish_eq]
  rfl

end Abort

/-! ## The statements -/

/-- Settles O21: ABORT is taken in every state of the command unit, and ends what the unit runs. -/
theorem abortStopsTheScan : Obligations.AbortStopsTheScan := by
  intro s hready
  have hleads : Leads s .abort s.abort :=
    writeCommandCode_abort s ▸ leads_of_writesCode hready writesCode_abort
  refine ⟨fun hidle => ?_, fun visited hfind => ?_, fun n removed hcascade => ?_⟩
  · exact abort_idle hidle ▸ hleads
  · exact abort_finding hfind ▸ hleads
  · exact abort_cascading hcascade ▸ hleads

/-- Settles O22: an unknown code taken while IDLE is an instant command; while BUSY the rows with a code other than
ABORT's are refused alike. -/
theorem codesNotTakenAsCommands : Obligations.CodesNotTakenAsCommands := by
  refine ⟨fun s code hready hunknown => ?_, fun s i hready hbusy hi => ?_⟩
  · exact leads_of_command hready rfl rfl (writeCommandCode_unknown hunknown s) rfl
  · have hcode : ∃ code, WritesCode i code ∧ code ≠ abortCode := by
      obtain hcommand | ⟨code, hunknown, rfl⟩ := hi
      · exact exists_writesCode_of_command hcommand
      · exact ⟨code, writesCode_badCommand code, ne_abortCode_of_unknown hunknown⟩
    obtain ⟨code, hwrites, hne⟩ := hcode
    have hleads : Leads s i (s.writeCommandCode code) := leads_of_writesCode hready hwrites
    rw [writeCommandCode_busy hbusy hne] at hleads
    exact hleads

end Sys2Proof.Proofs.CommandUnit
end

section
/-! PROOFS. What one step can do to the state, said once: the moves of each block (spec/01, spec/03 to spec/07), the changes they make to the state, and the operations of the part as chains of such changes (exec_reaches). A law that every change keeps is kept by every step (kept_by_step). -/

namespace Sys2Proof.Proofs.Changes

open Sys2Proof.Machine Sys2Proof.Laws
open Sys2Proof.Proofs.DirectoryCommands (withCode)

/-! ## The moves of one block -/

/-- R108: the controller waits for a frame or receives one, and no answer is in flight. -/
def Receptive (l : LineController) : Prop := l.state = .listen ∨ ∃ r, l.state = .receiving r

/-- What the line controller can do by itself (R104, R108 to R118). -/
inductive LineMove (l : LineController) : LineController → Prop
  | receive (frame : Reception) (h : Receptive l) : LineMove l { l with state := .receiving frame }
  | rest (h : Receptive l) : LineMove l l.resting
  | request (number : Word16) : LineMove l (l.requested number)
  | cancel : LineMove l l.cancelled
  | damage : LineMove l
      { l with
        damaged := min (l.damaged + 1) Config.damagedLimit
        damagedLatch := l.damagedLatch.map (·.count) }
  | echo {claim wire rate echoed} (h : l.state = .sending claim wire rate echoed) :
      LineMove l { l with state := .sending claim wire rate true }
  | send {claim length rate} (wire : List Byte) (h : l.state = .gap claim length rate) :
      LineMove l { l with state := .sending claim wire rate false }
  | consume {wire rate echoed} (h : l.state = .sending .answer wire rate echoed) :
      LineMove l { l with answer := none }.resting
  | beaconSent {wire rate echoed} (h : l.state = .sending .beacon wire rate echoed) :
      LineMove l { l with beacon := l.held, held := none }.resting
  | rate (r : BitVec 2) : LineMove l { l with rate := r }
  | gap {g : Byte} (h : 2 ≤ g.toNat ∧ g.toNat ≤ 15) : LineMove l { l with gap := g }
  | latch : LineMove l { l with damagedLatch := some ⟨l.damaged, 0⟩ }
  | dropLatch : LineMove l { l with damagedLatch := none }
  | settle {d : DamagedLatch} (h : l.damagedLatch = some d) :
      LineMove l { l with damaged := d.since, damagedLatch := none }
  | release : LineMove l l.released

/-- What the cycle unit can do (R88 to R103). -/
inductive CycleMove (c : CycleUnit) : CycleUnit → Prop
  | count (new : Word16) : CycleMove c { c with counter := new }
  | restartTimer (length : Nat) (h : c.state = .running) : CycleMove c { c with timer := some length }
  | clash (h : c.state = .running) : CycleMove c { c with timer := none, state := .clashed }
  | lock (length : Nat) (h : c.state = .seeking ∨ c.state = .coasting) :
      CycleMove c { c with deadline := some length, state := .locked }
  | restartDeadline (length : Nat) (h : c.state = .locked) : CycleMove c { c with deadline := some length }
  | coast (length : Nat) (h : c.state = .locked) : CycleMove c { c with deadline := some length, state := .coasting }
  | seek (h : c.state = .coasting) : CycleMove c { c with deadline := none, state := .seeking }
  | startSource (length : Nat) (h : c.run = false) :
      CycleMove c { c with mode := .source, run := true, timer := some length, state := .running }
  | startFollower (h : c.run = false) : CycleMove c { c with mode := .follower, run := true, state := .seeking }
  | stop : CycleMove c { c with run := false, timer := none, deadline := none, state := .stopped }
  | mode (m : CycleMode) (h : c.run = false) : CycleMove c { c with mode := m }
  | period {p : Byte} (h : 2 ≤ p.toNat ∧ p.toNat ≤ 200) : CycleMove c { c with period := p }

/-- What happens to the load schedule (R78 to R85). -/
inductive ScheduleMove (es : List ScheduleEntry) : List ScheduleEntry → Prop
  | remove {rest : List ScheduleEntry} (h : rest.Sublist es) : ScheduleMove es rest
  | merge (target : Word16) (mask : Byte) : ScheduleMove es (es.map (ScheduleEntry.merge target mask))
  | append {target : Word16} {mask : Byte} (hmask : mask ≠ 0) (habsent : ∀ e ∈ es, e.target ≠ target)
      (hroom : es.length < Config.scheduleDepth) : ScheduleMove es (es ++ [⟨target, mask⟩])

/-- A node entry that goes from one state of its life to another: neither offered nor released, with its identity, its
records and its reasons as they were, and RETIRING for good. -/
structure NodeMove (e e' : NodeEntry) : Prop where
  free : e'.state = .free ↔ e.state = .free
  retiring : e.state = .retiring → e'.state = .retiring
  identity : e'.identity = e.identity
  recordCount : e'.recordCount = e.recordCount
  reasons : e'.reasons = e.reasons
  lawful : e.Lawful → e'.Lawful

/-- A record that is changed in place: it keeps its name, its generation, its reasons and its live level's presence. -/
structure RecordMove (r r' : Record) : Prop where
  key : r'.key = r.key
  generation : r'.generation = r.generation
  reasons : r'.reasons = r.reasons
  live : r.liveLevel.isSome = true → r'.liveLevel.isSome = true
  delivery : r.Delivery → r'.Delivery

/-- R18, R41: a LEVEL answer names a record that holds a live level. -/
def Backed (s : State) : Answer → Prop
  | .level _ i generation _ _ _ =>
    ∃ r, (s.slot i).record = some r ∧ r.generation = generation ∧ r.liveLevel.isSome = true
  | _ => True

/-- R66, R69: a cascade of this node runs already, or can begin. -/
def MayCascade (s : State) (n : NodeNo) : Prop :=
  (∃ removed, s.command.state = .cascading n removed)
    ∨ ((s.node n).state = .retiring ∧ (s.node n).recordCount ≠ 0)

/-! ## The changes of the state -/

/-- One change of the state, as one event that keeps what the spec states of the whole part. -/
inductive Change (s : State) : State → Prop
  | quiet (lastFired : LastFired) (take : Option TakeLatch) (events : Events) (mask : BitVec 9) (stray : Stray)
      (port : HostPort) (clearing resetHeld : Bool) :
      Change s { s with
        lastFired := lastFired, take := take, events := events, mask := mask, stray := stray, port := port
        clearing := clearing, resetHeld := resetHeld }
  | command (c : CommandUnit) (h : ∀ n removed, c.state = .cascading n removed → MayCascade s n) :
      Change s { s with command := c }
  | line {l : LineController} (h : LineMove s.line l) : Change s { s with line := l }
  | answer {a : Answer} (h : Receptive s.line) (hbacked : Backed s a) :
      Change s { s with line := s.line.answering a }
  | range {low high : Byte} (hlow : 1 ≤ low.toNat) (hle : low.toNat ≤ high.toNat) (hhigh : high.toNat ≤ 239)
      (h : s.entriesWithin low high = true) :
      Change s { s with line := { s.line with rangeLow := low, rangeHigh := high } }
  | cycle {c : CycleUnit} (h : CycleMove s.cycle c) : Change s { s with cycle := c }
  | schedule {es : List ScheduleEntry} (h : ScheduleMove s.schedule es) : Change s { s with schedule := es }
  | node (n : NodeNo) {e : NodeEntry} (h : NodeMove (s.node n) e) : Change s (s.setNode n e)
  | offer {n : NodeNo} {w : WindowArguments} (hfree : (s.node n).state = .free)
      (hrange : s.line.rangeLow.toNat ≤ nodeAddress n ∧ nodeAddress n ≤ s.line.rangeHigh.toNat)
      (hnew : s.identityHolder w.identity = none) (hlifetime : w.first.toNat ≤ 4095) :
      Change s (s.setNode n (offeredEntry (s.node n) w))
  | release {n : NodeNo} (hcount : (s.node n).recordCount = 0) (hcalm : ∀ m k, s.command.state ≠ .cascading m k) :
      Change s (s.afterRelease n)
  | countNodes : Change s s.countNodes
  | raiseNode {n : NodeNo} {r : NodeReasons} (hfree : (s.node n).state ≠ .free) (hr : r.isEmpty = false) :
      Change s { s with
        nodes := s.nodes.set n.val { s.node n with reasons := (s.node n).reasons.union r }
        attention := if (s.node n).reasons.isEmpty then s.attention ++ [.node n] else s.attention
        take := s.take.map (·.noteNode n r) }
  | raiseRecord {i : SlotNo} {x : Record} {r : RecordReasons} (hx : (s.slot i).record = some x)
      (hr : r.isEmpty = false) :
      Change s { s with
        directory := { s.directory with
          slots := s.directory.slots.set i.val { s.slot i with record := some { x with reasons := x.reasons.union r } } }
        attention := if x.reasons.isEmpty then s.attention ++ [.record i] else s.attention
        take := s.take.map (·.noteRecord i r) }
  | settleNode {n : NodeNo} (taken : NodeReasons) (h : .node n ∈ s.attention) :
      Change s { s.setNode n { s.node n with reasons := (s.node n).reasons.minus taken } with
        attention := requeue s.attention (.node n) (!((s.node n).reasons.minus taken).isEmpty) }
  | settleRecord {i : SlotNo} {r : Record} (taken : RecordReasons) (hr : (s.slot i).record = some r)
      (h : .record i ∈ s.attention) :
      Change s { s.setRecord i { r with reasons := r.reasons.minus taken } with
        attention := requeue s.attention (.record i) (!(r.reasons.minus taken).isEmpty) }
  | place {i : SlotNo} {a : InsertArguments} (hempty : (s.slot i).record = none)
      (hkey : s.lookupKey a.key = none) (hnode : (s.node a.key.node).state ≠ .free) : Change s (s.place i a)
  | remove {i : SlotNo} {r : Record} (hr : (s.slot i).record = some r)
      (hleft : ∀ n k, s.command.state = .cascading n k → ((s.afterRemoval i r).node n).recordCount ≠ 0) :
      Change s (s.afterRemoval i r)
  | record {i : SlotNo} {r r' : Record} (hr : (s.slot i).record = some r) (h : RecordMove r r') :
      Change s (s.setRecord i r')
  | sent {i : SlotNo} {r : Record} {k : Key} {seq t : Bool} {level : Word16} (hr : (s.slot i).record = some r)
      (h : s.line.answer = some ⟨.level k i r.generation seq level t, false⟩) :
      Change s (s.setRecord i { r with sent := true })
  | load (mask : Byte) : Change s (s.load mask)
  | reset (port : HostPort) : Change s (s.resetWith port)

/-- The changes lead from one state to another. -/
abbrev Reaches : State → State → Prop := Relation.ReflTransGen Change

theorem reaches_of_eq {s t : State} (h : t = s) : Reaches s t := h ▸ .refl

/-- A property that every change keeps is kept along every chain of them. -/
theorem kept_of_reaches {P : State → Prop} (hkeeps : ∀ s t, P s → Change s t → P t) {s t : State} (h : Reaches s t)
    (hs : P s) : P t := by
  induction h with
  | refl => exact hs
  | tail _ hchange ih => exact hkeeps _ _ ih hchange

theorem change_pending {s t : State} (h : Change s t) : t.pending = s.pending := by
  cases h <;> rfl

theorem reaches_pending {s t : State} (h : Reaches s t) : t.pending = s.pending :=
  kept_of_reaches (P := fun u => u.pending = s.pending) (fun _ _ hu hchange => (change_pending hchange).trans hu) h rfl

/-! ## Changes that the laws do not see -/

section Quiet

variable (s : State)

theorem reaches_port (p : HostPort) : Reaches s { s with port := p } := .single (.quiet ..)
theorem reaches_setPort (p : HostPort) : Reaches s (s.setPort p) := reaches_port s p
theorem reaches_setPhase (p : PortPhase) : Reaches s (s.setPhase p) := reaches_port s _
theorem reaches_emit (out : List Sdo) : Reaches s (s.emit out) := reaches_port s _
theorem reaches_flag (f : ErrorFlag) : Reaches s (s.flag f) := reaches_port s _
theorem reaches_take (t : Option TakeLatch) : Reaches s { s with take := t } := .single (.quiet ..)
theorem reaches_raise (v : LatchedEvent) : Reaches s (s.raise v) := .single (.quiet ..)
theorem reaches_captureStray (x : Stray) : Reaches s (s.captureStray x) := .single (.quiet ..)
theorem reaches_writeEvents (value : Word16) : Reaches s (s.writeEvents value) := .single (.quiet ..)
theorem reaches_writeMask (value : Word16) : Reaches s (s.writeMask value) := .single (.quiet ..)

theorem reaches_flagIf (c : Bool) (f : ErrorFlag) : Reaches s (s.flagIf c f) := by
  cases c
  · exact .refl
  · exact reaches_flag s f

theorem reaches_closeAccess (a : Access) : Reaches s (s.closeAccess a) := by
  unfold State.closeAccess
  split
  · exact reaches_setPort s _
  · exact .refl

theorem reaches_afterField (a : Access) : Reaches s (s.afterField a) :=
  afterField_eq s a ▸ reaches_port s _

end Quiet

/-! ## The command unit -/

section Command

variable {s : State}

/-- A change of the command unit that begins no cascade. -/
theorem reaches_command {c : CommandUnit} (h : ∀ n removed, c.state = .cascading n removed → MayCascade s n) :
    Reaches s { s with command := c } := .single (.command c h)

/-- A change of the command unit that keeps its state. -/
theorem reaches_command_keeping {c : CommandUnit} (h : c.state = s.command.state) :
    Reaches s { s with command := c } :=
  reaches_command fun _ removed hc => .inl ⟨removed, h ▸ hc⟩

theorem reaches_writeImage (image : Vector Byte 16) : Reaches s (s.writeImage image) := reaches_command_keeping rfl

theorem reaches_finish (code : ResultCode) (slot : Nat) (generation : Byte) (count : Nat) :
    Reaches s (s.finish code slot generation count) :=
  (reaches_command (c := { s.command with state := .idle, result := ⟨code, slot, generation, count⟩ })
    (by rintro _ _ ⟨⟩)).trans (reaches_raise _ _)

theorem reaches_writeImage_finish (image : Vector Byte 16) (code : ResultCode) (slot : Nat) (generation : Byte)
    (count : Nat) : Reaches s ((s.writeImage image).finish code slot generation count) :=
  (reaches_writeImage image).trans (reaches_finish ..)

end Command

/-! ## The line -/

section Line

variable {s : State}

theorem reaches_line {l : LineController} (h : LineMove s.line l) : Reaches s { s with line := l } := .single (.line h)

/-- The state with the line controller in LISTEN, from which a received frame acts. -/
theorem toListen_of_listen (h : s.line.state = .listen) : s.toListen = s := by
  cases s with | mk d n sc lf c l => cases l; cases h; rfl

theorem reaches_endWithoutAnswer (h : Receptive s.line) : Reaches s s.endWithoutAnswer :=
  endWithoutAnswer_eq s ▸ reaches_line (.rest h)

theorem endWithoutAnswer_toListen (s : State) : s.toListen.endWithoutAnswer = s.endWithoutAnswer := rfl

theorem reaches_countDamage (s : State) : Reaches s s.countDamage :=
  (reaches_line .damage).trans (reaches_raise _ _)

theorem receptive_countDamage (h : Receptive s.line) : Receptive s.countDamage.line := h

theorem reaches_beginFrame (h : Receptive s.line) : Reaches s s.beginFrame := reaches_line (.receive _ h)

theorem frameDamaged_toListen (s : State) (cause : DamageCause) :
    s.toListen.frameDamaged cause = s.frameDamaged cause := by
  unfold State.frameDamaged
  split <;> rfl

/-- R108, R109, R111: a frame that ends damaged. -/
theorem reaches_frameDamaged (h : Receptive s.line) (cause : DamageCause) : Reaches s (s.frameDamaged cause) := by
  unfold State.frameDamaged
  split
  · exact (reaches_countDamage s).trans (reaches_beginFrame (receptive_countDamage h))
  · exact (reaches_countDamage s).trans (reaches_endWithoutAnswer (receptive_countDamage h))

theorem reaches_requestBeacon (s : State) (number : Word16) : Reaches s (s.requestBeacon number) :=
  requestBeacon_eq s number ▸ reaches_line (.request number)

theorem reaches_cancelBeacon (s : State) : Reaches s s.cancelBeacon :=
  cancelBeacon_eq s ▸ reaches_line .cancel

theorem reaches_handOver {a : Answer} (h : Receptive s.line) (hbacked : Backed s a) : Reaches s (s.handOver a) :=
  .single (.answer h hbacked)

theorem reaches_collide (s : State) : Reaches s s.collide := by
  unfold State.collide
  split
  · exact reaches_countDamage s
  · next h => exact (reaches_line (.echo h)).trans (reaches_countDamage _)
  · exact .refl
  · exact .refl

theorem reaches_setDamagedLatch_none (s : State) : Reaches s (s.setDamagedLatch none) := reaches_line .dropLatch

theorem reaches_dropLatches (s : State) : Reaches s s.dropLatches :=
  (reaches_setDamagedLatch_none s).trans (reaches_take _ _)

theorem reaches_latchDamaged (s : State) : Reaches s s.latchDamaged := reaches_line .latch

theorem reaches_completeDamaged (s : State) : Reaches s s.completeDamaged := by
  unfold State.completeDamaged
  split
  · exact .refl
  · next h => exact reaches_line (.settle h)

end Line

/-! ## Reasons and the take field -/

section Reasons

variable {s : State}

theorem reaches_raiseNode {n : NodeNo} (hfree : (s.node n).state ≠ .free) (r : NodeReasons) :
    Reaches s (s.raiseNode n r) := by
  cases hr : r.isEmpty with
  | true => exact reaches_of_eq (raiseNode_empty s n hr)
  | false => exact raiseNode_eq s n hr ▸ .single (.raiseNode hfree hr)

theorem reaches_raiseRecord (s : State) (i : SlotNo) (r : RecordReasons) : Reaches s (s.raiseRecord i r) := by
  cases hx : (s.slot i).record with
  | none => exact reaches_of_eq (by simp only [State.raiseRecord, hx])
  | some x =>
    cases hr : r.isEmpty with
    | true => exact reaches_of_eq (raiseRecord_empty s i hr)
    | false => exact raiseRecord_eq hx hr ▸ .single (.raiseRecord hx hr)

theorem reaches_latchTake (s : State) : Reaches s s.latchTake := reaches_take _ _

/-- R123, R125: the last byte of a take field read settles the subject, or leaves it alone. -/
theorem reaches_completeTake (s : State) : Reaches s s.completeTake := by
  unfold State.completeTake
  split
  · exact .refl
  · exact reaches_take _ _
  · split
    · next i g latched since gone htake x r hr =>
      split
      · next h =>
        exact .tail (.single (.settleRecord (latched.minus since) hr (by simpa using h.2))) (.quiet ..)
      · exact reaches_take _ _
    · exact reaches_take _ _
  · next n latched since gone htake =>
    split
    · next h => exact .tail (.single (.settleNode (latched.minus since) (by simpa using h.2))) (.quiet ..)
    · exact reaches_take _ _

end Reasons

/-! ## The cycle unit and the load unit -/

section Cycle

variable {s : State}

theorem reaches_setCycle {c : CycleUnit} (h : CycleMove s.cycle c) : Reaches s (s.setCycle c) := .single (.cycle h)

/-- R103: a move of the cycle unit to another cycle state raises CYCLE. -/
theorem reaches_setCycle_raise {c : CycleUnit} (h : CycleMove s.cycle c) : Reaches s ((s.setCycle c).raise .cycle) :=
  (reaches_setCycle h).trans (reaches_raise _ _)

theorem reaches_setSchedule {es : List ScheduleEntry} (h : ScheduleMove s.schedule es) :
    Reaches s { s with schedule := es } := .single (.schedule h)

theorem reaches_load (s : State) (mask : Byte) : Reaches s (s.load mask) := .single (.load mask)

theorem reaches_fireSchedule (s : State) (old new : Word16) : Reaches s (s.fireSchedule old new) := by
  unfold State.fireSchedule
  dsimp only
  split
  · exact .refl
  · exact ((reaches_load s _).trans (reaches_setSchedule (.remove List.filter_sublist))).tail (.quiet ..)

/-- R91, R92: a cycle start. -/
theorem reaches_cycleStart (s : State) (new : Word16) : Reaches s (s.cycleStart new) :=
  ((reaches_setCycle (.count new)).tail .countNodes).trans (reaches_fireSchedule _ _ _)

theorem cycleStart_state (s : State) (new : Word16) : (s.cycleStart new).cycle.state = s.cycle.state := by
  rw [(cycleStart_line_cycle s new).2]

theorem reaches_firstMiss (h : s.cycle.state = .locked) : Reaches s s.firstMiss :=
  (reaches_cycleStart s _).trans (reaches_setCycle_raise (.coast _ ((cycleStart_state s _).trans h)))

theorem reaches_secondMiss (h : s.cycle.state = .coasting) : Reaches s s.secondMiss :=
  reaches_setCycle_raise (.seek h)

/-- R95, R97, R99, R100: a BEACON at the cycle unit. -/
theorem reaches_hearBeacon (s : State) (number : Word16) : Reaches s (s.hearBeacon number) := by
  unfold State.hearBeacon
  split
  · exact .refl
  · next h => exact (reaches_setCycle_raise (.clash h)).trans (reaches_cancelBeacon _)
  · exact .refl
  · next h =>
    exact (reaches_cycleStart s _).trans (reaches_setCycle_raise (.lock _ (.inl ((cycleStart_state s _).trans h))))
  · next h =>
    split
    · exact (reaches_cycleStart s _).trans (reaches_setCycle (.restartDeadline _ ((cycleStart_state s _).trans h)))
    · exact reaches_firstMiss h
  · next h =>
    split
    · exact (reaches_cycleStart s _).trans
        (reaches_setCycle_raise (.lock _ (.inr ((cycleStart_state s _).trans h))))
    · exact reaches_secondMiss h

theorem reaches_timerExpiry (h : s.cycle.state = .running) : Reaches s s.timerExpiry :=
  ((reaches_cycleStart s _).trans (reaches_setCycle (.restartTimer _ ((cycleStart_state s _).trans h)))).trans
    (reaches_requestBeacon _ _)

theorem reaches_startCycle (h : s.cycle.run = false) (mode : CycleMode) : Reaches s (s.startCycle mode) := by
  cases mode with
  | source => exact reaches_setCycle_raise (.startSource _ h)
  | follower => exact reaches_setCycle_raise (.startFollower h)

theorem reaches_stopCycle (s : State) : Reaches s s.stopCycle :=
  (reaches_setCycle_raise .stop).trans (reaches_cancelBeacon _)

/-- R89: a write of the cycle control field. -/
theorem reaches_writeCycleControl (s : State) (value : Byte) : Reaches s (s.writeCycleControl value) := by
  unfold State.writeCycleControl
  split
  · split
    · split
      · exact .refl
      · exact reaches_stopCycle s
    · exact reaches_flag s _
  · next hrun =>
    have hrun : s.cycle.run = false := by simpa using hrun
    split
    · exact reaches_startCycle hrun _
    · exact reaches_setCycle (.mode _ hrun)

theorem reaches_writeCyclePeriod (s : State) (value : Byte) : Reaches s (s.writeCyclePeriod value) := by
  unfold State.writeCyclePeriod
  split
  · next h => exact reaches_setCycle (.period h)
  · exact reaches_flag s _

theorem reaches_writeLineRate (s : State) (value : Byte) : Reaches s (s.writeLineRate value) := by
  unfold State.writeLineRate
  split
  · exact reaches_line (.rate _)
  · exact reaches_flag s _

theorem reaches_writeAnswerGap (s : State) (value : Byte) : Reaches s (s.writeAnswerGap value) := by
  unfold State.writeAnswerGap
  split
  · next h => exact reaches_line (.gap h)
  · exact reaches_flag s _

theorem reaches_writeAnswerRange (s : State) (low high : Byte) : Reaches s (s.writeAnswerRange low high) := by
  unfold State.writeAnswerRange
  split
  · next h =>
    obtain ⟨-, hlow, -, -, hhigh, hle, hwithin⟩ := h
    exact .single (.range hlow hle hhigh hwithin)
  · exact reaches_flag s _

end Cycle

/-! ## The directory commands -/

section Directory

variable {s : State}

theorem lookupKey_record {k : Key} {i : SlotNo} {r : Record} (h : s.lookupKey k = some (i, r)) :
    (s.slot i).record = some r := by
  unfold State.lookupKey at h
  split at h
  · cases h
  · split at h
    · cases h
    · next hr => cases h; exact hr

theorem reaches_cmdLookup (s : State) : Reaches s s.cmdLookup := by
  unfold State.cmdLookup
  split
  · exact reaches_finish ..
  · split
    · exact reaches_finish ..
    · exact reaches_writeImage_finish ..

theorem reaches_cmdReadSlot (s : State) : Reaches s s.cmdReadSlot := by
  unfold State.cmdReadSlot
  split
  · exact reaches_finish ..
  · split <;> exact reaches_writeImage_finish ..

/-- R12 checks 4 and 5, R13: the record is placed where its key is absent and the slot is empty. -/
theorem reaches_insertRecord {a : InsertArguments} (hnode : (s.node a.key.node).state ≠ .free) :
    Reaches s (s.insertRecord a) := by
  unfold State.insertRecord
  split
  · exact reaches_writeImage_finish ..
  · next hkey =>
    split
    · exact reaches_finish ..
    · next hempty =>
      have hplace : Reaches s (s.place _ a) := .single (.place (lowestEmpty_some.1 hempty).1 hkey hnode)
      exact hplace.trans (reaches_writeImage_finish ..)

theorem reaches_cmdInsert (s : State) : Reaches s s.cmdInsert := by
  unfold State.cmdInsert
  split
  · exact reaches_finish ..
  · next a ha =>
    cases hstate : (s.node a.key.node).state with
    | free => exact reaches_finish ..
    | retiring => exact reaches_finish ..
    | offered | assigned | bound | silent => exact reaches_insertRecord (by simp [hstate])

/-- R5, R15, R16: a live change clears sent and delivered; without one the live level stays. -/
theorem recordMove_amend (a : AmendArguments) (r : Record) : RecordMove r (a.apply r) := by
  unfold AmendArguments.apply
  split
  · refine ⟨rfl, rfl, rfl, fun h => ?_, fun _ => ⟨nofun, nofun⟩⟩
    show (if a.setLive then some a.liveValue else r.liveLevel).isSome = true
    split
    · rfl
    · exact h
  · next hlive =>
    have hset : a.setLive = false := by
      cases h : a.setLive
      · rfl
      · simp [AmendArguments.isLiveChange, h] at hlive
    have hlevel : (a.change r).liveLevel = r.liveLevel := by simp [AmendArguments.change, hset]
    exact ⟨rfl, rfl, rfl, fun h => hlevel ▸ h, fun h => ⟨h.1, fun hsent => hlevel ▸ h.2 hsent⟩⟩

theorem reaches_setRecord {i : SlotNo} {r r' : Record} (hr : (s.slot i).record = some r) (h : RecordMove r r') :
    Reaches s (s.setRecord i r') := .single (.record hr h)

theorem reaches_cmdAmend (s : State) : Reaches s s.cmdAmend := by
  unfold State.cmdAmend
  split
  · next i a hi ha =>
    unfold State.amendSlot
    split
    · exact reaches_finish ..
    · next r hr =>
      split
      · exact reaches_finish ..
      · exact (reaches_setRecord hr (recordMove_amend a r)).trans (reaches_writeImage_finish ..)
  · exact reaches_finish ..

/-- No cascade runs. -/
def Calm (s : State) : Prop := ∀ n k, s.command.state ≠ .cascading n k

theorem calm_of_idle (h : s.command.state = .idle) : Calm s := fun n k hc => by
  rw [h] at hc; cases hc

theorem reaches_removeRecord {i : SlotNo} {r : Record} (hr : (s.slot i).record = some r) (hcalm : Calm s) :
    Reaches s (s.afterRemoval i r) := .single (.remove hr fun n k hc => absurd hc (hcalm n k))

theorem reaches_afterRelease {n : NodeNo} (hcount : (s.node n).recordCount = 0) (hcalm : Calm s) :
    Reaches s (s.afterRelease n) := .single (.release hcount hcalm)

theorem reaches_retireRecord {i : SlotNo} {r : Record} (hr : (s.slot i).record = some r) (hcalm : Calm s) :
    Reaches s (s.retireRecord i r.node) := by
  unfold State.retireRecord
  rw [removeRecord_eq hr]
  split
  · next hgone =>
    have hcount : ((s.afterRemoval i r).node r.node).recordCount = 0 := by
      simp only [State.lastRecordGone, Bool.and_eq_true, beq_iff_eq] at hgone
      exact hgone.2
    exact (reaches_removeRecord hr hcalm).trans (reaches_afterRelease hcount hcalm)
  · exact reaches_removeRecord hr hcalm

theorem reaches_cmdRetire (hcalm : Calm s) : Reaches s s.cmdRetire := by
  unfold State.cmdRetire
  split
  · exact reaches_finish ..
  · split
    · exact reaches_finish ..
    · next r hr =>
      split
      · exact reaches_finish ..
      · exact (reaches_retireRecord hr hcalm).trans (reaches_writeImage_finish ..)

theorem reaches_cmdFind (s : State) : Reaches s s.cmdFind := by
  unfold State.cmdFind
  split
  · exact reaches_finish ..
  · split
    · exact reaches_command (by rintro _ _ ⟨⟩)
    · exact reaches_finish ..

theorem reaches_findPasses (s : State) (visited : Nat) : Reaches s (s.findPasses visited) := by
  unfold State.findPasses
  split
  · exact reaches_finish ..
  · exact reaches_command (by rintro _ _ ⟨⟩)

theorem reaches_visitFind (s : State) (visited : Nat) : Reaches s (s.visitFind visited) := by
  unfold State.visitFind
  split
  · exact reaches_findPasses s visited
  · split
    · exact reaches_writeImage_finish ..
    · exact reaches_findPasses s visited

end Directory

/-! ## The node commands and the load commands -/

section Nodes

variable {s : State}

theorem offerTarget_range {n : NodeNo} (h : s.offerTarget = some n) :
    s.line.rangeLow.toNat ≤ nodeAddress n ∧ nodeAddress n ≤ s.line.rangeHigh.toNat := by
  unfold State.offerTarget at h
  split at h
  · next hrange => exact nodeNo?_eq_some.1 h ▸ hrange
  · cases h

theorem reaches_cmdOffer (s : State) : Reaches s s.cmdOffer := by
  unfold State.cmdOffer
  split
  · exact reaches_finish ..
  · next n hn =>
    split
    · exact reaches_writeImage_finish ..
    · next hfree =>
      split
      · exact reaches_finish ..
      · split
        · exact reaches_writeImage_finish ..
        · next hnew =>
          split
          · next hlifetime =>
            have hoffer : Reaches s (s.setNode n (offeredEntry (s.node n) s.command.window)) :=
              .single (.offer (not_not.1 hfree) (offerTarget_range hn) hnew hlifetime)
            exact hoffer.trans (reaches_writeImage_finish ..)
          · exact reaches_finish ..

theorem reaches_cmdReadNode (s : State) : Reaches s s.cmdReadNode := by
  unfold State.cmdReadNode
  split
  · exact reaches_finish ..
  · exact reaches_writeImage_finish ..

theorem reaches_setNode {n : NodeNo} {e : NodeEntry} (h : NodeMove (s.node n) e) : Reaches s (s.setNode n e) :=
  .single (.node n h)

/-- R66: an entry that is not FREE becomes RETIRING. -/
theorem nodeMove_retiring {e : NodeEntry} (h : e.state ≠ .free) : NodeMove e { e with state := .retiring } := by
  refine ⟨⟨nofun, fun hfree => absurd hfree h⟩, fun _ => rfl, rfl, rfl, rfl, fun hlaw => ?_⟩
  obtain ⟨hsilence, hoffer, hstate⟩ := hlaw
  refine ⟨hsilence, hoffer, ?_⟩
  show e.identity.isSome = true
  cases hcase : e.state <;> simp only [hcase] at hstate
  case free => exact absurd hcase h
  case retiring => exact hstate
  all_goals exact hstate.1

theorem reaches_makeRetiring {n : NodeNo} (h : (s.node n).state ≠ .free) : Reaches s (s.makeRetiring n) :=
  reaches_setNode (nodeMove_retiring h)

theorem reaches_cmdRetireNode (hcalm : Calm s) : Reaches s s.cmdRetireNode := by
  unfold State.cmdRetireNode
  split
  · exact reaches_finish ..
  · next n hn =>
    split
    · exact reaches_finish ..
    · next hfree =>
      split
      · next hcount =>
        rw [freeNode_makeRetiring]
        exact (reaches_afterRelease hcount hcalm).trans (reaches_finish ..)
      · next hcount =>
        have hretiring : MayCascade (s.makeRetiring n) n :=
          .inr (by simpa [State.makeRetiring] using hcount)
        refine (reaches_makeRetiring hfree).trans (reaches_command ?_)
        rintro m removed ⟨⟩
        exact hretiring

theorem reaches_cascadePasses {n : NodeNo} {removed : Nat} (h : ∃ k, s.command.state = .cascading n k) :
    Reaches s (s.cascadePasses n removed) :=
  reaches_command (by rintro m k ⟨⟩; exact .inl h)

/-- R68, R69: a visit of the cascade that removes a record ends it with the last one. -/
theorem reaches_cascadeRemoves {n : NodeNo} {removed : Nat} {r : Record} (h : s.command.state = .cascading n removed)
    (hr : (s.slot s.command.scan).record = some r) : Reaches s (s.cascadeRemoves n removed) := by
  unfold State.cascadeRemoves
  rw [removeRecord_eq hr]
  split
  · next hcount =>
    let u : State := { s with command := { s.command with state := .idle } }
    have hidle : Reaches s u := reaches_command (by rintro _ _ ⟨⟩)
    have hcalm : Calm u := calm_of_idle rfl
    have hremoved : Reaches u (u.afterRemoval s.command.scan r) := reaches_removeRecord hr hcalm
    have hreleased : Reaches u ((u.afterRemoval s.command.scan r).afterRelease n) :=
      hremoved.trans (reaches_afterRelease hcount hcalm)
    exact (hidle.trans hreleased).trans (reaches_finish .done (nodeAddress n) 0 (removed + 1))
  · next hcount =>
    have hremoved : Reaches s (s.afterRemoval s.command.scan r) := by
      refine .single (.remove hr fun m k hm => ?_)
      rw [h] at hm
      cases hm
      exact hcount
    exact hremoved.trans (reaches_cascadePasses ⟨removed, h⟩)

theorem reaches_visitCascade {n : NodeNo} {removed : Nat} (h : s.command.state = .cascading n removed) :
    Reaches s (s.visitCascade n removed) := by
  unfold State.visitCascade
  split
  · exact reaches_cascadePasses ⟨removed, h⟩
  · next r hr =>
    split
    · exact reaches_cascadeRemoves h hr
    · exact reaches_cascadePasses ⟨removed, h⟩

theorem reaches_cmdLoad (s : State) : Reaches s s.cmdLoad := by
  unfold State.cmdLoad
  split
  · exact reaches_finish ..
  · exact (reaches_load s _).trans (reaches_finish ..)

theorem reaches_cmdSchedule (s : State) : Reaches s s.cmdSchedule := by
  unfold State.cmdSchedule
  dsimp only
  split
  · exact reaches_finish ..
  · split
    · exact reaches_finish ..
    · next hmask =>
      split
      · exact (reaches_setSchedule (.merge _ _)).trans (reaches_finish ..)
      · next habsent =>
        split
        · next hroom =>
          exact (reaches_setSchedule (.append hmask (schedulePlace_none.1 habsent) hroom)).trans (reaches_finish ..)
        · exact reaches_finish ..

theorem reaches_cmdUnschedule (s : State) : Reaches s s.cmdUnschedule := by
  unfold State.cmdUnschedule
  split
  · exact reaches_finish ..
  · exact (reaches_setSchedule (.remove (List.eraseIdx_sublist ..))).trans (reaches_finish ..)

end Nodes

/-! ## The command code -/

section Code

theorem reaches_ite {s a b : State} {c : Prop} [Decidable c] (ha : Reaches s a) (hb : Reaches s b) :
    Reaches s (if c then a else b) := by
  split
  · exact ha
  · exact hb

theorem reaches_withCode (s : State) (code : Byte) : Reaches s (withCode s code) := reaches_command_keeping rfl

/-- R133: a command that is taken finds the command unit IDLE. -/
theorem reaches_takeCommand {body : State → State} (h : ∀ u, u.command.state = .idle → Reaches u (body u)) (s : State)
    (code : Byte) : Reaches s (s.takeCommand code body) := by
  cases hstate : s.command.state with
  | idle =>
    rw [takeCommand_idle hstate]
    exact (reaches_withCode s code).trans (h (withCode s code) hstate)
  | finding _ => exact takeCommand_busy (by rw [hstate]; rfl) code body ▸ reaches_flag s _
  | cascading _ _ => exact takeCommand_busy (by rw [hstate]; rfl) code body ▸ reaches_flag s _

theorem reaches_abort (s : State) : Reaches s s.abort := by
  unfold State.abort
  split <;> exact (reaches_withCode s abortCode).trans (reaches_finish ..)

/-- R133, R140: a write of the command code field, by the code. -/
theorem reaches_writeCommandCode (s : State) (code : Byte) : Reaches s (s.writeCommandCode code) := by
  have takes {body : State → State} (h : ∀ u, Reaches u (body u)) : Reaches s (s.takeCommand code body) :=
    reaches_takeCommand (fun u _ => h u) s code
  unfold State.writeCommandCode
  refine reaches_ite (takes reaches_cmdLookup) <| reaches_ite (takes reaches_cmdReadSlot) <|
    reaches_ite (takes reaches_cmdInsert) <| reaches_ite (takes reaches_cmdAmend) <|
    reaches_ite (reaches_takeCommand (fun _ h => reaches_cmdRetire (calm_of_idle h)) s code) <|
    reaches_ite (takes reaches_cmdFind) <| reaches_ite (takes reaches_cmdReadNode) <| reaches_ite (takes reaches_cmdOffer) <|
    reaches_ite (reaches_takeCommand (fun _ h => reaches_cmdRetireNode (calm_of_idle h)) s code) <|
    reaches_ite (takes reaches_cmdLoad) <| reaches_ite (takes reaches_cmdSchedule) <|
    reaches_ite (takes reaches_cmdUnschedule) <| reaches_ite (reaches_abort s) <| takes fun u => reaches_finish ..

theorem reaches_writeGuarded {s : State} {c : CommandUnit} (h : c.state = s.command.state) :
    Reaches s (s.writeGuarded c) := by
  unfold State.writeGuarded
  split
  · exact reaches_flag s _
  · exact reaches_command_keeping h

/-- R144: whatever a field's owner does with a write. -/
theorem reaches_applyField (s : State) (f : Field) (bytes : List Byte) : Reaches s (s.applyField f bytes) := by
  cases f
  case interfaceControl => exact reaches_setPort s _
  case loopLength => exact reaches_setPort s _
  case errorFlags => exact reaches_setPort s _
  case eventRegister => exact reaches_writeEvents s _
  case eventMask => exact reaches_writeMask s _
  case cycleControl => exact reaches_writeCycleControl s _
  case cyclePeriod => exact reaches_writeCyclePeriod s _
  case lineRate => exact reaches_writeLineRate s _
  case answerGap => exact reaches_writeAnswerGap s _
  case answerRange => exact reaches_writeAnswerRange s _ _
  case commandCode => exact reaches_writeCommandCode s _
  case unknown => exact .refl
  case commandArgument | windowIdentity | windowFirst | windowSecond | windowSelect | windowGroup | windowPermit
    | windowDemand => exact reaches_writeGuarded rfl
  all_goals exact reaches_flag s _

end Code

/-! ## The host serial port -/

section Port

variable {s : State}

theorem reaches_writeCrcEnablePair (s : State) (value : Byte) : Reaches s (s.writeCrcEnablePair value) := by
  unfold State.writeCrcEnablePair
  split
  · exact .refl
  · exact reaches_setPort s _

theorem reaches_startEffects (s : State) (a : Access) : Reaches s (s.startEffects a) := by
  unfold State.startEffects
  dsimp only
  split
  · exact .refl
  · split
    · exact reaches_flagIf s _ _
    · have hflags : Reaches s ((s.flagIf a.inMiddle .partialField).flagIf (fieldAt a.addr).isUnknown .unknownAddress) :=
        (reaches_flagIf s _ _).trans (reaches_flagIf _ _ _)
      split
      · exact hflags
      · split
        · exact hflags.trans (reaches_latchTake _)
        · exact hflags.trans (reaches_latchDamaged _)
        · exact hflags

theorem reaches_lastByte (s : State) (a : Access) (t : Transfer) : Reaches s (s.lastByte a t) := by
  unfold State.lastByte
  split
  · exact .refl
  · split
    · split
      · exact reaches_completeTake s
      · exact reaches_completeDamaged s
      · exact .refl
    · exact reaches_flagIf s _ _

theorem reaches_applyTransfer (s : State) (a : Access) (t : Transfer) : Reaches s (s.applyTransfer a t) := by
  unfold State.applyTransfer
  split
  · split
    · exact reaches_writeCrcEnablePair s _
    · exact reaches_applyField s _ _
  · exact .refl

theorem reaches_applyAndGoOn (s : State) (a : Access) (t : Transfer) : Reaches s (s.applyAndGoOn a t) :=
  (reaches_applyTransfer s a t).trans (reaches_afterField _ _)

theorem reaches_finishField (s : State) (a : Access) (t : Transfer) : Reaches s (s.finishField a t) := by
  unfold State.finishField
  dsimp only
  split
  · exact (reaches_lastByte s a t).trans (reaches_setPhase _ _)
  · exact (reaches_lastByte s a t).trans (reaches_applyAndGoOn _ a t)

theorem reaches_cutField (s : State) (a : Access) : Reaches s (s.cutField a) :=
  ((reaches_flagIf s _ _).trans (reaches_dropLatches _)).trans (reaches_setPhase _ _)

theorem reaches_transferByte (s : State) (a : Access) (t : Transfer) (sdi : Byte) :
    Reaches s (s.transferByte a t sdi) := by
  unfold State.transferByte
  dsimp only
  split
  · exact (reaches_emit s _).trans (reaches_finishField _ _ _)
  · split
    · exact (reaches_emit s _).trans (reaches_cutField _ _)
    · exact (reaches_emit s _).trans (reaches_setPhase _ _)

theorem reaches_dataByte (s : State) (a : Access) (sdi : Byte) : Reaches s (s.dataByte a sdi) := by
  unfold State.dataByte
  split
  · exact ((reaches_closeAccess s a).trans (reaches_setPhase _ _)).trans (reaches_emit _ _)
  · split
    · exact reaches_transferByte s a _ sdi
    · exact (reaches_startEffects s a).trans (reaches_transferByte _ a _ sdi)

theorem reaches_fieldCrcByte (s : State) (a : Access) (t : Transfer) (sdi : Byte) :
    Reaches s (s.fieldCrcByte a t sdi) := by
  unfold State.fieldCrcByte
  split
  · exact (reaches_emit s _).trans (reaches_afterField _ a)
  · split
    · exact (reaches_emit s _).trans (reaches_applyAndGoOn _ a t)
    · exact ((reaches_emit s _).trans (reaches_flagIf _ _ _)).trans (reaches_afterField _ a)

theorem reaches_beginData (s : State) (a : Access) : Reaches s (s.beginData a) :=
  (reaches_flagIf s _ _).trans (reaches_setPhase _ _)

theorem reaches_instructionEnd (s : State) (first second : Byte) (d : Bool) :
    Reaches s (s.instructionEnd first second d) := by
  unfold State.instructionEnd
  dsimp only
  split
  · exact reaches_setPhase s _
  · split
    · exact reaches_setPhase s _
    · exact reaches_beginData s _

theorem reaches_checkInstruction (s : State) (first second : Byte) (d : Bool) (crc : Byte) :
    Reaches s (s.checkInstruction first second d crc) := by
  unfold State.checkInstruction
  dsimp only
  split
  · exact reaches_beginData s _
  · exact ((reaches_flagIf s _ _).trans (reaches_flag _ _)).trans (reaches_setPhase _ _)

theorem reaches_firstByte (s : State) (st : StatusBytes) (sdi : Byte) : Reaches s (s.firstByte st sdi) :=
  (reaches_emit s _).trans (reaches_setPhase _ _)

/-- R142: whatever one byte on SDI does. -/
theorem reaches_clockByte (s : State) (sdi : Byte) : Reaches s (s.clockByte sdi) := by
  unfold State.clockByte
  split
  · exact .refl
  · exact reaches_firstByte s _ sdi
  · exact reaches_firstByte s _ sdi
  · exact (reaches_emit s _).trans (reaches_instructionEnd _ _ _ _)
  · exact (reaches_emit s _).trans (reaches_checkInstruction _ _ _ _ _)
  · exact reaches_dataByte s _ sdi
  · exact reaches_fieldCrcByte s _ _ sdi
  · exact reaches_emit s _

/-- A run of operations, each a chain of changes. -/
theorem reaches_foldl {α : Type} {f : State → α → State} (h : ∀ u x, Reaches u (f u x)) (xs : List α) (s : State) :
    Reaches s (xs.foldl f s) := by
  induction xs generalizing s with
  | nil => exact .refl
  | cons x xs ih => exact (h s x).trans (ih (f s x))

theorem reaches_openFrame (s : State) : Reaches s s.openFrame := by
  unfold State.openFrame
  split
  · split
    · exact reaches_setPort s _
    · exact (reaches_setPort s _).trans (reaches_setPhase _ _)
  · exact .refl

theorem reaches_cutAtEnd (s : State) (cut : Bool) : Reaches s (s.cutAtEnd cut) := by
  unfold State.cutAtEnd
  split
  · exact (reaches_flag s _).trans (reaches_dropLatches _)
  · exact .refl

theorem reaches_endAccess (s : State) : Reaches s s.endAccess := by
  unfold State.endAccess
  split
  · exact reaches_closeAccess s _
  · exact reaches_closeAccess s _
  · exact reaches_closeAccess s _
  all_goals exact .refl

theorem reaches_resetWith (s : State) (port : HostPort) : Reaches s (s.resetWith port) := .single (.reset port)

/-- R143: whatever CSN rising does. -/
theorem reaches_closeFrame (s : State) (tail : List Bool) : Reaches s (s.closeFrame tail) := by
  have hends : Reaches s (((s.flagIf (s.bitsCount tail) .bitCount).cutAtEnd s.fieldCut).endAccess.setPhase .idle) :=
    (((reaches_flagIf s _ _).trans (reaches_cutAtEnd _ _)).trans (reaches_endAccess _)).trans (reaches_setPhase _ _)
  unfold State.closeFrame
  dsimp only
  split
  · exact hends.trans (reaches_resetWith _ _)
  · exact hends

theorem reaches_clockInstruction (s : State) (isRead : Bool) (start : HostAddr) :
    Reaches s (s.clockInstruction isRead start) := by
  unfold State.clockInstruction
  dsimp only
  split
  · exact ((reaches_clockByte s _).trans (reaches_clockByte _ _)).trans (reaches_clockByte _ _)
  · exact (reaches_clockByte s _).trans (reaches_clockByte _ _)

theorem reaches_openRow (s : State) (isRead : Bool) (start : HostAddr) : Reaches s (s.openRow isRead start) := by
  unfold State.openRow
  split
  · exact .refl
  · exact (reaches_openFrame s).trans (reaches_clockInstruction _ _ _)

theorem reaches_clockFieldByte (crc : Option Byte) (s : State) (sdi : Byte) :
    Reaches s (s.clockFieldByte crc sdi) := by
  unfold State.clockFieldByte
  split
  · exact (reaches_clockByte s _).trans (reaches_clockByte _ _)
  · exact reaches_clockByte s _

theorem reaches_closeRow (s : State) (own : Bool) : Reaches s (s.closeRow own) := by
  unfold State.closeRow
  split
  · exact reaches_closeFrame s _
  · exact .refl

/-- Log 4: whatever a run of bytes written by a row does. -/
theorem reaches_hostWrite (s : State) (start : HostAddr) (sdi : List Byte) (crc : Option Byte) :
    Reaches s (s.hostWrite start sdi crc) := by
  unfold State.hostWrite
  split
  · exact ((reaches_openRow s _ _).trans (reaches_foldl (reaches_clockFieldByte crc) _ _)).trans (reaches_closeRow _ _)
  · exact .refl

theorem reaches_writeField (s : State) (f : Field) (bytes : List Byte) : Reaches s (s.writeField f bytes) :=
  reaches_hostWrite s _ _ _

theorem reaches_standAlone (s : State) (own : Bool) : Reaches s (s.standAlone own) := by
  unfold State.standAlone
  split
  · exact reaches_setPhase s _
  · exact .refl

theorem reaches_latchRead (s : State) (f : Field) : Reaches s (s.latchRead f) := by
  unfold State.latchRead
  split
  · exact ((reaches_openRow s _ _).trans (reaches_standAlone _ _)).trans (reaches_clockByte _ _)
  · exact .refl

theorem reaches_completeRead (s : State) (f : Field) : Reaches s (s.completeRead f) := by
  unfold State.completeRead
  split
  · split
    · split
      · exact (reaches_foldl (reaches_clockFieldByte none) _ s).trans (reaches_closeRow _ _)
      · exact .refl
    · exact .refl
  · exact .refl

end Port

/-! ## Frames received -/

section Frames

variable {s : State}

/-- A frame that is received acts with the controller in LISTEN, from LISTEN or at the end of the frame in reception. -/
def Delivers (deliver : State → State) : Prop := ∀ s : State, Receptive s.line → Reaches s (deliver s.toListen)

theorem toListen_raiseRecord (s : State) (i : SlotNo) (r : RecordReasons) :
    s.toListen.raiseRecord i r = (s.raiseRecord i r).toListen := by
  cases hx : (s.slot i).record with
  | none =>
    have hx' : (s.toListen.slot i).record = none := hx
    simp only [State.raiseRecord, hx, hx']
  | some x =>
    have hx' : (s.toListen.slot i).record = some x := hx
    cases hr : r.isEmpty with
    | true => simp only [raiseRecord_empty _ _ hr]
    | false => rw [raiseRecord_eq hx hr, raiseRecord_eq hx' hr]; rfl

theorem raiseRecord_line (s : State) (i : SlotNo) (r : RecordReasons) : (s.raiseRecord i r).line = s.line := by
  unfold State.raiseRecord
  split
  · rfl
  · split <;> rfl

/-- Raising reasons leaves everything else of the record as it is. -/
theorem raiseRecord_record {i : SlotNo} {x : Record} (hx : (s.slot i).record = some x) (r : RecordReasons) :
    ∃ reasons, ((s.raiseRecord i r).slot i).record = some { x with reasons := reasons } := by
  cases hr : r.isEmpty with
  | true => exact ⟨x.reasons, by rw [raiseRecord_empty s i hr]; exact hx⟩
  | false => exact ⟨x.reasons.union r, by rw [raiseRecord_eq hx hr]; simp [State.slot]⟩

/-- R28, R29: an entry that the gate lets pass becomes BOUND. -/
theorem nodeMove_gated {e : NodeEntry} (h : e.PassesGate) (status : Option Byte) : NodeMove e (e.gated status) := by
  have hfree : e.state ≠ .free := by rcases h with h | h | h <;> simp [h]
  have hretiring : e.state ≠ .retiring := by rcases h with h | h | h <;> simp [h]
  refine ⟨⟨nofun, fun hf => absurd hf hfree⟩, fun hr => absurd hr hretiring, rfl, rfl, rfl, fun hlaw => ?_⟩
  obtain ⟨-, hoffer, hstate⟩ := hlaw
  refine ⟨Nat.zero_le _, hoffer, ?_⟩
  show e.identity.isSome = true ∧ (if e.state = .assigned then 0 else e.confirmRemaining) = 0
  rcases h with h | h | h <;> simp only [h] at hstate ⊢
  · exact ⟨hstate.1, by simp⟩
  · exact ⟨hstate.1, by simpa using hstate.2⟩
  · exact ⟨hstate.1, by simpa using hstate.2⟩

theorem reaches_passGate {n : NodeNo} (h : (s.node n).PassesGate) (status : Option Byte) :
    Reaches s (s.passGate n status) := by
  have hgated : Reaches s (s.setNode n ((s.node n).gated status)) := reaches_setNode (nodeMove_gated h status)
  refine hgated.trans (reaches_raiseNode ?_ _)
  rw [node_setNode_self]
  exact nofun

/-- R32 to R38: a record from which a POLL is answered. -/
theorem recordMove_polled (r : Record) (p : PollFrame) (counter : Word16) : RecordMove r (r.polled p counter) := by
  refine ⟨rfl, rfl, rfl, id, fun h => ⟨fun hdelivered => ?_, h.2⟩⟩
  have hor : (r.delivered || r.confirms p.echoSeq) = true := hdelivered
  rcases Bool.or_eq_true_iff.1 hor with hdel | hconf
  · exact h.1 hdel
  · simp only [Record.confirms, Bool.and_eq_true] at hconf
    exact hconf.1.1.2

/-- R36: the answer from a record names that record, and is LEVEL only with a live level. -/
theorem backed_answer {i : SlotNo} {r x : Record} (hr : (s.slot i).record = some x) (hgen : x.generation = r.generation)
    (hlive : x.liveLevel = r.liveLevel) (k : Key) (p : PollFrame) : Backed s (r.answer k i p) := by
  unfold Record.answer
  split
  · trivial
  · split
    · trivial
    · next level hlevel => exact ⟨x, hr, hgen, by rw [hlive, hlevel]; rfl⟩

theorem reaches_answerFrom {k : Key} {i : SlotNo} {r : Record} (h : Receptive s.line)
    (hr : (s.slot i).record = some r) (p : PollFrame) : Reaches s (s.toListen.answerFrom k i r p) := by
  let u := s.setRecord i (r.polled p s.cycle.counter)
  have hcomm : s.toListen.answerFrom k i r p = (u.raiseRecord i (r.pollReasons p)).handOver (r.answer k i p) :=
    congrArg (·.handOver (r.answer k i p)) (toListen_raiseRecord u i (r.pollReasons p))
  have hu : (u.slot i).record = some (r.polled p s.cycle.counter) := by simp [u, slot_setRecord]
  obtain ⟨reasons, hraised⟩ := raiseRecord_record hu (r.pollReasons p)
  rw [hcomm]
  refine ((reaches_setRecord hr (recordMove_polled r p _)).trans (reaches_raiseRecord u i _)).trans
    (reaches_handOver ?_ (backed_answer hraised rfl rfl k p))
  rw [raiseRecord_line]
  exact h

theorem reaches_refusePoll (h : Receptive s.line) (k : Key) (reason : RefuseReason) :
    Reaches s (s.toListen.refusePoll k reason) :=
  (reaches_captureStray s _).trans (reaches_handOver (s := s.captureStray _) h trivial)

theorem reaches_lookupPoll (h : Receptive s.line) (n : NodeNo) (p : PollFrame) :
    Reaches s (s.toListen.lookupPoll n p) := by
  unfold State.lookupPoll
  split
  · exact reaches_refusePoll h _ _
  · next hfound => exact reaches_answerFrom h (lookupKey_record hfound) p

theorem reaches_takePoll (h : Receptive s.line) (n : NodeNo) (p : PollFrame) : Reaches s (s.toListen.takePoll n p) := by
  have hpasses (hgate : (s.node n).PassesGate) :
      Reaches s ((s.toListen.passGate n p.status).lookupPoll n p) := by
    have hcomm : s.toListen.passGate n p.status = (s.passGate n p.status).toListen := by
      rw [passGate_eq, passGate_eq]; rfl
    rw [hcomm]
    exact (reaches_passGate hgate p.status).trans (reaches_lookupPoll (by rw [passGate_eq]; exact h) n p)
  unfold State.takePoll
  split
  · exact reaches_refusePoll h _ _
  · exact reaches_refusePoll h _ _
  · exact reaches_refusePoll h _ _
  · next hstate => exact hpasses (.inl hstate)
  · next hstate => exact hpasses (.inr (.inl hstate))
  · next hstate => exact hpasses (.inr (.inr hstate))

theorem delivers_poll (p : PollFrame) : Delivers (·.dispatchPoll p) := by
  intro s h
  show Reaches s (s.toListen.dispatchPoll p)
  unfold State.dispatchPoll
  split
  · exact reaches_endWithoutAnswer h
  · exact reaches_takePoll h _ p

theorem announced_ne_free {v : Identity} {n : NodeNo} (h : s.announced v = some n) : (s.node n).state ≠ .free := by
  have hmatch := List.find?_some h
  simp only [Bool.and_eq_true] at hmatch
  exact ((announces_iff _).1 hmatch.1).1

theorem toListen_raiseNode (s : State) (n : NodeNo) (r : NodeReasons) :
    s.toListen.raiseNode n r = (s.raiseNode n r).toListen := by
  cases hr : r.isEmpty with
  | true => simp only [raiseNode_empty _ _ hr]
  | false => simp only [raiseNode_eq _ _ hr]; rfl

theorem raiseNode_line (s : State) (n : NodeNo) (r : NodeReasons) : (s.raiseNode n r).line = s.line := by
  unfold State.raiseNode
  split <;> rfl

theorem reaches_takeAnnounce (h : Receptive s.line) {n : NodeNo} (hfree : (s.node n).state ≠ .free)
    (identity : Identity) : Reaches s (s.toListen.takeAnnounce n identity) := by
  unfold State.takeAnnounce
  split
  · rw [toListen_raiseNode]
    exact (reaches_raiseNode hfree _).trans
      (reaches_handOver (s := s.raiseNode n announcedReason) ((raiseNode_line s n announcedReason).symm ▸ h) trivial)
  · exact reaches_handOver (s := s) h trivial

theorem reaches_wakeBy (h : Receptive s.line) {n : NodeNo} (hfree : (s.node n).state ≠ .free) :
    Reaches s (s.toListen.wakeBy n) := by
  unfold State.wakeBy
  rw [toListen_raiseNode]
  exact ((reaches_raiseNode hfree _).trans (reaches_raise _ _)).trans
    (reaches_endWithoutAnswer (s := (s.raiseNode n announcedReason).raise .wake) ((raiseNode_line s n announcedReason).symm ▸ h))

theorem delivers_announce (body : List Byte) : Delivers (·.dispatchAnnounce body) := by
  intro s h
  show Reaches s (s.toListen.dispatchAnnounce body)
  unfold State.dispatchAnnounce
  split
  · exact reaches_endWithoutAnswer h
  · next identity hsearch =>
    split
    · next hn _ => exact reaches_wakeBy h (announced_ne_free (s := s) hn)
    · exact reaches_endWithoutAnswer h
    · next hn _ => exact reaches_takeAnnounce h (announced_ne_free (s := s) hn) identity
    · exact (reaches_captureStray s _).trans (reaches_endWithoutAnswer (s := s.captureStray _) h)

theorem toListen_fireSchedule (s : State) (old new : Word16) :
    s.toListen.fireSchedule old new = (s.fireSchedule old new).toListen := by
  unfold State.fireSchedule
  dsimp only
  rw [apply_ite State.toListen]
  rfl

theorem toListen_cycleStart (s : State) (new : Word16) : s.toListen.cycleStart new = (s.cycleStart new).toListen :=
  toListen_fireSchedule ((s.setCycle { s.cycle with counter := new }).countNodes) s.cycle.counter new

theorem cancelled_receptive {l : LineController} (h : Receptive l) :
    l.cancelled = { l with beacon := none, held := none } := by
  rcases h with h | ⟨r, h⟩ <;> simp [LineController.cancelled, h]

/-- R95 to R102: what a BEACON does at the cycle unit does not depend on the reception that ended with it. -/
theorem toListen_hearBeacon (h : Receptive s.line) (number : Word16) :
    s.toListen.hearBeacon number = (s.hearBeacon number).toListen := by
  have hclash : s.toListen.clash = s.clash.toListen := by
    simp only [State.clash, cancelBeacon_eq]
    have h1 := cancelled_receptive h
    have h2 := cancelled_receptive (l := s.toListen.line) (.inl rfl)
    simp only [State.changeCycleState, line_raise, line_setCycle, h1, h2]
    rfl
  unfold State.hearBeacon
  cases hstate : s.cycle.state
  all_goals have hstate' : s.toListen.cycle.state = _ := hstate; simp only [hstate']
  · exact hclash
  · simp only [State.lock, toListen_cycleStart]; rfl
  · simp only [State.beaconStart, State.firstMiss, toListen_cycleStart, apply_ite State.toListen]; rfl
  · simp only [State.beaconStart, State.secondMiss, toListen_cycleStart, apply_ite State.toListen]; rfl

end Frames

section Arrivals

variable {s : State}

theorem hearBeacon_receptive (h : Receptive s.line) (number : Word16) : Receptive (s.hearBeacon number).line := by
  have hstart (new : Word16) : Receptive (s.cycleStart new).line := by rw [(cycleStart_line_cycle s new).1]; exact h
  unfold State.hearBeacon
  split
  · exact h
  · rw [State.clash, cancelBeacon_eq]
    show Receptive s.line.cancelled
    rw [cancelled_receptive h]
    exact h
  · exact h
  · exact hstart number
  · split <;> exact hstart _
  · split
    · exact hstart _
    · exact h

theorem delivers_beacon (number : Word16) : Delivers (·.dispatchBeacon number) := by
  intro s h
  show Reaches s (s.toListen.hearBeacon number).endWithoutAnswer
  rw [toListen_hearBeacon h, endWithoutAnswer_toListen]
  exact (reaches_hearBeacon s number).trans (reaches_endWithoutAnswer (hearBeacon_receptive h number))

theorem delivers_endWithoutAnswer : Delivers State.endWithoutAnswer := fun _ h => reaches_endWithoutAnswer h

theorem delivers_frameDamaged (cause : DamageCause) : Delivers (·.frameDamaged cause) := fun s h => by
  show Reaches s (s.toListen.frameDamaged cause)
  rw [frameDamaged_toListen]
  exact reaches_frameDamaged h cause

theorem delivers_dispatch (frame : ValidFrame) : Delivers (·.dispatch frame) := by
  cases frame with
  | poll p => exact delivers_poll p
  | announce body => exact delivers_announce body
  | beacon number => exact delivers_beacon number
  | answerKind kind => exact delivers_endWithoutAnswer

/-- R108, R110, R113: a whole frame that arrives. -/
theorem reaches_arrive {deliver : State → State} (h : Delivers deliver) (s : State) (same : Reception → Bool) :
    Reaches s (s.arrive same deliver) := by
  unfold State.arrive
  split
  · split
    · next hlisten =>
      have hdelivered := h s (.inl hlisten)
      rwa [toListen_of_listen hlisten] at hdelivered
    · next r hreceiving =>
      have hreceptive : Receptive s.line := .inr ⟨r, hreceiving⟩
      split
      · exact h s hreceptive
      · exact (reaches_countDamage s).trans (h s.countDamage (receptive_countDamage hreceptive))
    · exact reaches_collide s
    · exact reaches_collide s
  · exact .refl

theorem reaches_endFrame {r : Reception} (h : s.line.state = .receiving r) : Reaches s (s.endFrame r) := by
  have hreceptive : Receptive s.line := .inr ⟨r, h⟩
  unfold State.endFrame
  split
  · exact delivers_frameDamaged _ s hreceptive
  · exact delivers_dispatch _ s hreceptive

/-- R108, R113: one byte on the line. -/
theorem reaches_lineByte (s : State) (b : LineByte) : Reaches s (s.lineByte b) := by
  unfold State.lineByte
  split
  · split
    · next h => exact reaches_ite (reaches_beginFrame (.inl h)) .refl
    · next r h =>
      have hreceptive : Receptive s.line := .inr ⟨r, h⟩
      exact reaches_ite (reaches_endFrame h)
        (reaches_ite (reaches_frameDamaged hreceptive _) (reaches_line (.receive _ hreceptive)))
    · exact reaches_ite (reaches_countDamage s) .refl
    · next h => exact reaches_ite (reaches_ite (reaches_countDamage s) .refl) (reaches_line (.echo h))
  · exact .refl

end Arrivals

/-! ## Frames sent -/

section Sending

variable {s : State}

/-- R41: the record is marked sent only while the answer built from it is in flight and not void. -/
theorem reaches_markSent {k : Key} {i : SlotNo} {generation : Byte} {seq t voided : Bool} {level : Word16}
    (h : s.line.answer = some ⟨.level k i generation seq level t, voided⟩) :
    Reaches s (s.markSent i generation seq voided) := by
  unfold State.markSent
  split
  · exact .refl
  · next r hr =>
    split
    · next hmatch =>
      simp only [Bool.and_eq_true, Bool.not_eq_true', beq_iff_eq] at hmatch
      obtain ⟨⟨hvalid, hgeneration⟩, -⟩ := hmatch
      subst hvalid hgeneration
      exact .single (.sent hr h)
    · exact .refl

theorem markSent_line (s : State) (i : SlotNo) (generation : Byte) (seq voided : Bool) :
    (s.markSent i generation seq voided).line = s.line := by
  unfold State.markSent
  split
  · rfl
  · split <;> rfl

/-- R58: an entry that takes its ASSIGN. -/
theorem nodeMove_assigned {e : NodeEntry} {identity : Identity} (h : e.assignable identity = true) :
    NodeMove e { e with state := .assigned, confirmRemaining := Config.confirmWindow, silence := 0 } := by
  simp only [NodeEntry.assignable, Bool.and_eq_true, bne_iff_ne, beq_iff_eq] at h
  obtain ⟨⟨hfree, hretiring⟩, hidentity⟩ := h
  refine ⟨⟨nofun, fun hf => absurd hf hfree⟩, fun hr => absurd hr hretiring, rfl, rfl, rfl, fun hlaw => ?_⟩
  obtain ⟨-, hoffer, -⟩ := hlaw
  exact ⟨Nat.zero_le _, hoffer, by show e.identity.isSome = true; rw [hidentity]; rfl, Nat.succ_pos _, Nat.le_refl _, rfl⟩

theorem reaches_completeAssign (s : State) (n : NodeNo) (identity : Identity) :
    Reaches s (s.completeAssign n identity) := by
  unfold State.completeAssign
  split
  · next h => exact reaches_setNode (nodeMove_assigned h)
  · exact .refl

theorem completeAssign_line (s : State) (n : NodeNo) (identity : Identity) :
    (s.completeAssign n identity).line = s.line := by
  unfold State.completeAssign
  split <;> rfl

/-- The answer being sent is the answer in flight, in SENDING. -/
theorem answerSending_some {a : InFlight} (h : s.answerSending = some a) :
    (∃ wire rate echoed, s.line.state = .sending .answer wire rate echoed) ∧ s.line.answer = some a := by
  unfold State.answerSending at h
  split at h
  · cases h
  · split at h
    · next hstate => exact ⟨⟨_, _, _, hstate⟩, h⟩
    · cases h

/-- R112: the answer is consumed, and a pending beacon is taken. -/
theorem reaches_consumed {wire : List Byte} {rate : BitVec 2} {echoed : Bool}
    (h : s.line.state = .sending .answer wire rate echoed) :
    Reaches s { s with line := { s.line with answer := none }.resting } := reaches_line (.consume h)

theorem reaches_consumeAnswer_takeBeacon {a : InFlight} (h : s.answerSending = some a) :
    Reaches s s.consumeAnswer.takeBeacon := by
  obtain ⟨⟨_, _, _, hstate⟩, -⟩ := answerSending_some h
  have heq : s.consumeAnswer.takeBeacon = { s with line := { s.line with answer := none }.resting } :=
    takeBeacon_listen rfl
  exact heq ▸ reaches_consumed hstate

theorem consumeAnswer_markSent (s : State) (i : SlotNo) (generation : Byte) (seq voided : Bool) :
    s.consumeAnswer.markSent i generation seq voided = (s.markSent i generation seq voided).consumeAnswer := by
  cases hr : (s.slot i).record with
  | none =>
    have hr' : (s.consumeAnswer.slot i).record = none := hr
    simp only [State.markSent, hr, hr']
  | some r =>
    have hr' : (s.consumeAnswer.slot i).record = some r := hr
    simp only [State.markSent, hr, hr', apply_ite State.consumeAnswer]
    rfl

theorem reaches_levelSendCompletion {k : Key} {i : SlotNo} {generation : Byte} {seq t voided : Bool}
    {level : Word16} (h : s.answerSending = some ⟨.level k i generation seq level t, voided⟩) :
    Reaches s (s.consumeAnswer.markSent i generation seq voided).takeBeacon := by
  obtain ⟨⟨_, _, _, hstate⟩, hanswer⟩ := answerSending_some h
  let u := s.markSent i generation seq voided
  have hline : u.line = s.line := markSent_line s i generation seq voided
  have hcomm : s.consumeAnswer.markSent i generation seq voided = u.consumeAnswer :=
    consumeAnswer_markSent s i generation seq voided
  have heq : (s.consumeAnswer.markSent i generation seq voided).takeBeacon =
      { u with line := { u.line with answer := none }.resting } := by
    rw [hcomm]
    exact takeBeacon_listen rfl
  rw [heq]
  exact (reaches_markSent hanswer).trans (reaches_consumed (by rw [hline]; exact hstate))

theorem reaches_assignSendCompletion {n : NodeNo} {identity : Identity} {voided : Bool}
    (h : s.answerSending = some ⟨.assign n identity, voided⟩) :
    Reaches s (s.consumeAnswer.completeAssign n identity).takeBeacon := by
  obtain ⟨⟨_, _, _, hstate⟩, hanswer⟩ := answerSending_some h
  let u := s.completeAssign n identity
  have hline : u.line = s.line := completeAssign_line s n identity
  have hcomm : s.consumeAnswer.completeAssign n identity = u.consumeAnswer := by
    simp only [u, State.completeAssign, apply_ite State.consumeAnswer]
    rfl
  have heq : (s.consumeAnswer.completeAssign n identity).takeBeacon =
      { u with line := { u.line with answer := none }.resting } := by
    rw [hcomm]
    exact takeBeacon_listen rfl
  rw [heq]
  exact (reaches_completeAssign s n identity).trans (reaches_consumed (by rw [hline]; exact hstate))

end Sending

/-! ## The operations -/

theorem reaches_unlessHeld {f : State → State} {s : State} (h : Reaches s (f s)) : Reaches s (unlessHeld f s) := by
  unfold unlessHeld
  split
  · exact .refl
  · exact h

theorem reaches_answerGapExpiry {s t : State} (h : exec .answerGapExpiry s = .next t) : Reaches s t := by
  obtain rfl := Host.Outcome.next.inj h
  apply reaches_unlessHeld
  split
  · next hgap =>
    split
    · exact reaches_line (.send _ hgap)
    · exact .refl
  · exact .refl

theorem reaches_beaconSendCompletion {s t : State} (h : exec .beaconSendCompletion s = .next t) : Reaches s t := by
  obtain rfl := Host.Outcome.next.inj h
  apply reaches_unlessHeld
  split
  · next hsending =>
    have heq : (s.setLine { s.line with state := .listen, beacon := s.line.held, held := none }).takeBeacon =
        { s with line := { s.line with beacon := s.line.held, held := none }.resting } := takeBeacon_listen rfl
    exact heq ▸ reaches_line (.beaconSent hsending)
  · exact .refl

theorem reaches_answerCompletions {s t : State} {i : Instr}
    (hi : i = .levelSendCompletion ∨ i = .answerSendCompletion ∨ i = .assignSendCompletion)
    (h : exec i s = .next t) : Reaches s t := by
  rcases hi with rfl | rfl | rfl <;> obtain rfl := Host.Outcome.next.inj h
  · split
    · next hsending => exact reaches_levelSendCompletion hsending
    · exact .refl
  · split
    · next hsending => exact reaches_ite (reaches_consumeAnswer_takeBeacon hsending) .refl
    · exact .refl
  · split
    · next hsending => exact reaches_assignSendCompletion hsending
    · exact .refl

theorem reaches_cycleEvents {s t : State} {i : Instr} (hi : i = .cycleTimerExpiry ∨ i = .beaconDeadlineExpiry)
    (h : exec i s = .next t) : Reaches s t := by
  rcases hi with rfl | rfl <;> obtain rfl := Host.Outcome.next.inj h <;> apply reaches_unlessHeld
  · split
    · next hrunning => exact reaches_timerExpiry hrunning.1
    · exact .refl
  · split
    · split
      · next hlocked => exact reaches_firstMiss hlocked
      · next hcoasting => exact reaches_secondMiss hcoasting
      · exact .refl
    · exact .refl

theorem reaches_scanVisits {s t : State} {i : Instr} (hi : i = .findVisit ∨ i = .cascadeVisit)
    (h : exec i s = .next t) : Reaches s t := by
  rcases hi with rfl | rfl <;> obtain rfl := Host.Outcome.next.inj h <;> apply reaches_unlessHeld
  · split
    · exact reaches_visitFind s _
    · exact .refl
  · split
    · next hcascading => exact reaches_visitCascade hcascading
    · exact .refl

theorem reaches_lineSilence {s t : State} (h : exec .lineSilence s = .next t) : Reaches s t := by
  obtain rfl := Host.Outcome.next.inj h
  refine reaches_ite ?_ .refl
  split
  · next r hreceiving =>
    have hreceptive : Receptive s.line := .inr ⟨r, hreceiving⟩
    exact (reaches_countDamage s).trans (reaches_endWithoutAnswer (receptive_countDamage hreceptive))
  · exact .refl

theorem reaches_resetPinAssert {s t : State} (h : exec .resetPinAssert s = .next t) : Reaches s t := by
  obtain rfl := Host.Outcome.next.inj h
  exact ((reaches_dropLatches s).trans (reaches_line .release)).tail (.quiet ..)

theorem reaches_startUpClearCompletion {s t : State} (h : exec .startUpClearCompletion s = .next t) :
    Reaches s t := by
  obtain rfl := Host.Outcome.next.inj h
  exact reaches_unlessHeld (reaches_ite (.single (.quiet ..)) .refl)

/-- R109: an ANNOUNCE of a length that no ANNOUNCE has is damaged. -/
theorem delivers_announceRow (body : List Byte) : Delivers (fun s =>
    if 12 ≤ body.length ∧ body.length ≤ 64 then s.dispatchAnnounce body else s.frameDamaged .announceLength) := by
  intro s h
  exact reaches_ite (delivers_announce body s h) (delivers_frameDamaged _ s h)

/-- Every operation is a chain of changes. -/
theorem exec_reaches {s t : State} {i : Instr} (h : exec i s = .next t) : Reaches s t := by
  cases i
  case findVisit => exact reaches_scanVisits (.inl rfl) h
  case cascadeVisit => exact reaches_scanVisits (.inr rfl) h
  case poll p => exact Host.Outcome.next.inj h ▸ reaches_arrive (delivers_poll p) s _
  case announce body => exact Host.Outcome.next.inj h ▸ reaches_arrive (delivers_announceRow body) s _
  case beacon number => exact Host.Outcome.next.inj h ▸ reaches_arrive (delivers_beacon number) s _
  case ignoredAnswerKind => exact Host.Outcome.next.inj h ▸ reaches_arrive delivers_endWithoutAnswer s _
  case damagedFrame cause => exact Host.Outcome.next.inj h ▸ reaches_arrive (delivers_frameDamaged cause) s _
  case lineSilence => exact reaches_lineSilence h
  case collision => exact Host.Outcome.next.inj h ▸ reaches_ite (reaches_collide s) .refl
  case answerGapExpiry => exact reaches_answerGapExpiry h
  case levelSendCompletion => exact reaches_answerCompletions (.inl rfl) h
  case answerSendCompletion => exact reaches_answerCompletions (.inr (.inl rfl)) h
  case assignSendCompletion => exact reaches_answerCompletions (.inr (.inr rfl)) h
  case beaconSendCompletion => exact reaches_beaconSendCompletion h
  case cycleTimerExpiry => exact reaches_cycleEvents (.inl rfl) h
  case beaconDeadlineExpiry => exact reaches_cycleEvents (.inr rfl) h
  case registerWrite => exact Host.Outcome.next.inj h ▸ reaches_hostWrite s _ _ _
  case takeFieldLatch | damagedCountReadLatch => exact Host.Outcome.next.inj h ▸ reaches_latchRead s _
  case takeFieldCompletion | damagedCountReadCompletion => exact Host.Outcome.next.inj h ▸ reaches_completeRead s _
  case instructionPhase sdi =>
    exact Host.Outcome.next.inj h ▸ (reaches_openFrame s).trans (reaches_foldl reaches_clockByte sdi _)
  case csnRise tail => exact Host.Outcome.next.inj h ▸ reaches_ite (reaches_setPhase s _) (reaches_closeFrame s tail)
  case powerOnReset | resetPinRelease => exact Host.Outcome.next.inj h ▸ reaches_resetWith s _
  case resetPinAssert => exact reaches_resetPinAssert h
  case startUpClearCompletion => exact reaches_startUpClearCompletion h
  case startMarker following => exact Host.Outcome.next.inj h ▸ reaches_foldl reaches_lineByte _ s
  all_goals exact Host.Outcome.next.inj h ▸ reaches_writeField s _ _

/-- A law that every change keeps, and that does not look at the queue, is kept by every step. -/
theorem kept_by_step {P : State → Prop} (hkeeps : ∀ s t, P s → Change s t → P t)
    (hqueue : ∀ (s : State) (rest : List Instr), P s → P { s with pending := rest }) {s t : State} (hs : P s)
    (h : step s = .next t) : P t := by
  unfold step at h
  split at h
  · exact Host.Outcome.next.inj h ▸ hs
  · exact kept_of_reaches hkeeps (exec_reaches h) (hqueue s _ hs)

end Sys2Proof.Proofs.Changes
end

section
/-! PROOFS. The laws of the cycle unit, the settings and the schedule, of the line controller, and that every operation ends in a next state: what each change does to them. -/

namespace Sys2Proof.Proofs.KeptLaws

open Sys2Proof.Machine Sys2Proof.Laws Sys2Proof.Proofs.Changes

/-! ## The laws at reset -/

theorem cycleLaw_reset : State.reset.CycleLaw :=
  ⟨⟨fun _ => rfl, fun _ => rfl⟩, by simp [State.reset, CycleUnit.reset], by simp [State.reset, CycleUnit.reset],
    by simp [State.reset, CycleUnit.reset], by simp [State.reset, CycleUnit.reset], by decide, by decide⟩

theorem settingsLaw_reset : State.reset.SettingsLaw :=
  ⟨by decide, by decide, Nat.zero_le _, nofun⟩

theorem scheduleLaw_reset : State.reset.ScheduleLaw :=
  ⟨Nat.zero_le _, fun _ he => absurd he List.not_mem_nil, List.nodup_nil⟩

theorem lineLaw_reset : State.reset.LineLaw := ⟨rfl, rfl, rfl⟩

/-! ## The cycle unit (R88, R90, R98) -/

theorem cycleLaw_of_move {s : State} {c : CycleUnit} (hs : s.CycleLaw) (h : CycleMove s.cycle c) :
    { s with cycle := c }.CycleLaw := by
  obtain ⟨hrun, hsource, hfollower, htimer, hdeadline, hperiod⟩ := hs
  cases h with
  | count new => exact ⟨hrun, hsource, hfollower, htimer, hdeadline, hperiod⟩
  | restartTimer length h => exact ⟨hrun, hsource, hfollower, by simp [h], hdeadline, hperiod⟩
  | clash h => exact ⟨by simp [hrun, h], by simp [hsource, h], by simp, by simp, by simp [hdeadline, h], hperiod⟩
  | lock length h =>
    rcases h with h | h
    · exact ⟨by simp [hrun, h], by simp, by simp [hfollower, h], by simpa [h] using htimer, by simp, hperiod⟩
    · exact ⟨by simp [hrun, h], by simp, by simp [hfollower, h], by simpa [h] using htimer, by simp, hperiod⟩
  | restartDeadline length h => exact ⟨hrun, hsource, hfollower, htimer, by simp [h], hperiod⟩
  | coast length h =>
    exact ⟨by simp [hrun, h], by simp, by simp [hfollower, h], by simpa [h] using htimer, by simp, hperiod⟩
  | seek h => exact ⟨by simp [hrun, h], by simp, by simp [hfollower, h], by simpa [h] using htimer, by simp, hperiod⟩
  | startSource length h => 
    have hstopped := hrun.1 h
    exact ⟨by simp, by simp, by simp, by simp, by simpa [hstopped] using hdeadline, hperiod⟩
  | startFollower h =>
    have hstopped := hrun.1 h
    exact ⟨by simp, by simp, by simp, by simpa [hstopped] using htimer, by simpa [hstopped] using hdeadline, hperiod⟩
  | stop => exact ⟨by simp, by simp, by simp, by simp, by simp, hperiod⟩
  | mode m h =>
    have hstopped := hrun.1 h
    exact ⟨hrun, by simp [hstopped], by simp [hstopped], htimer, hdeadline, hperiod⟩
  | period h => exact ⟨hrun, hsource, hfollower, htimer, hdeadline, h⟩

theorem change_keeps_cycleLaw {s t : State} (hs : s.CycleLaw) (h : Change s t) : t.CycleLaw := by
  cases h
  case cycle h => exact cycleLaw_of_move hs h
  case reset port => exact cycleLaw_reset
  all_goals exact hs

/-! ## The line settings (R104, R111, R116) -/

theorem resting_settings (l : LineController) :
    l.resting.gap = l.gap ∧ l.resting.damaged = l.damaged ∧ l.resting.damagedLatch = l.damagedLatch := ⟨rfl, rfl, rfl⟩

theorem requested_settings (l : LineController) (number : Word16) :
    (l.requested number).gap = l.gap ∧ (l.requested number).damaged = l.damaged
      ∧ (l.requested number).damagedLatch = l.damagedLatch := by
  unfold LineController.requested
  split <;> exact ⟨rfl, rfl, rfl⟩

theorem cancelled_settings (l : LineController) :
    l.cancelled.gap = l.gap ∧ l.cancelled.damaged = l.damaged ∧ l.cancelled.damagedLatch = l.damagedLatch := by
  unfold LineController.cancelled
  split <;> exact ⟨rfl, rfl, rfl⟩

theorem settingsLaw_congr {s : State} {l : LineController} (hs : s.SettingsLaw)
    (h : l.gap = s.line.gap ∧ l.damaged = s.line.damaged ∧ l.damagedLatch = s.line.damagedLatch) :
    { s with line := l }.SettingsLaw := by
  obtain ⟨hgap, hdamaged, hlatch⟩ := h
  simpa only [State.SettingsLaw, hgap, hdamaged, hlatch] using hs

theorem settingsLaw_of_move {s : State} {l : LineController} (hs : s.SettingsLaw) (h : LineMove s.line l) :
    { s with line := l }.SettingsLaw := by
  obtain ⟨hlow, hhigh, hdamaged, hlatch⟩ := id hs
  cases h with
  | request number => exact settingsLaw_congr hs (requested_settings _ number)
  | cancel => exact settingsLaw_congr hs (cancelled_settings _)
  | damage =>
    refine ⟨hlow, hhigh, Nat.min_le_right _ _, fun d hd => ?_⟩
    obtain ⟨x, -, rfl⟩ := Option.map_eq_some_iff.1 hd
    exact Nat.min_le_right _ _
  | gap h => exact ⟨h.1, h.2, hdamaged, hlatch⟩
  | latch =>
    refine ⟨hlow, hhigh, hdamaged, fun d hd => ?_⟩
    cases hd
    exact Nat.zero_le _
  | dropLatch => exact ⟨hlow, hhigh, hdamaged, nofun⟩
  | settle h => exact ⟨hlow, hhigh, hlatch _ h, nofun⟩
  | receive | rest | echo | send | consume | beaconSent | rate | release => exact hs

theorem change_keeps_settingsLaw {s t : State} (hs : s.SettingsLaw) (h : Change s t) : t.SettingsLaw := by
  cases h
  case line h => exact settingsLaw_of_move hs h
  case reset port => exact settingsLaw_reset
  all_goals exact hs

/-! ## The schedule (R78) -/

theorem merge_target (target : Word16) (mask : Byte) (e : ScheduleEntry) :
    (ScheduleEntry.merge target mask e).target = e.target := by
  unfold ScheduleEntry.merge
  split <;> rfl

theorem merge_mask_ne_zero (target : Word16) (mask : Byte) {e : ScheduleEntry} (h : e.mask ≠ 0) :
    (ScheduleEntry.merge target mask e).mask ≠ 0 := by
  unfold ScheduleEntry.merge
  split
  · intro hor
    exact h (BitVec.or_eq_zero_iff.1 hor).1
  · exact h

theorem scheduleLaw_of_move {s : State} {es : List ScheduleEntry} (hs : s.ScheduleLaw)
    (h : ScheduleMove s.schedule es) : { s with schedule := es }.ScheduleLaw := by
  obtain ⟨hlength, hmasks, htargets⟩ := hs
  cases h with
  | remove h => exact ⟨h.length_le.trans hlength, fun e he => hmasks e (h.subset he), (h.map _).nodup htargets⟩
  | merge target mask =>
    refine ⟨by simpa using hlength, fun e he => ?_, ?_⟩
    · obtain ⟨x, hx, rfl⟩ := List.mem_map.1 he
      exact merge_mask_ne_zero target mask (hmasks x hx)
    · have hsame : (s.schedule.map (ScheduleEntry.merge target mask)).map (·.target) = s.schedule.map (·.target) := by
        rw [List.map_map]
        exact List.map_congr_left fun e _ => merge_target target mask e
      exact hsame ▸ htargets
  | append hmask habsent hroom =>
    refine ⟨by rw [List.length_append]; exact hroom, fun e he => ?_, ?_⟩
    · rcases List.mem_append.1 he with he | he
      · exact hmasks e he
      · rw [List.mem_singleton.1 he]
        exact hmask
    · rw [List.map_append, List.map_singleton, ← List.concat_eq_append]
      refine htargets.concat fun hmem => ?_
      obtain ⟨e, he, htarget⟩ := List.mem_map.1 hmem
      exact habsent e he htarget

theorem change_keeps_scheduleLaw {s t : State} (hs : s.ScheduleLaw) (h : Change s t) : t.ScheduleLaw := by
  cases h
  case schedule h => exact scheduleLaw_of_move hs h
  case reset port => exact scheduleLaw_reset
  all_goals exact hs

/-- Settles O54: each of the three laws is kept by the moves of its own block, and no other change touches it. -/
theorem cycleAndScheduleLawsAreKept : Obligations.CycleAndScheduleLawsAreKept := by
  intro s t hs h
  exact kept_by_step (P := fun u => u.CycleLaw ∧ u.SettingsLaw ∧ u.ScheduleLaw)
    (fun _ _ ⟨hcycle, hsettings, hschedule⟩ hchange => ⟨change_keeps_cycleLaw hcycle hchange,
      change_keeps_settingsLaw hsettings hchange, change_keeps_scheduleLaw hschedule hchange⟩)
    (fun _ _ hu => hu) hs h

/-! ## The line controller (R112, R114) -/

/-- R114: where no answer is in flight and no request is held, the controller rests lawfully. -/
theorem lineLaw_resting {s : State} {l : LineController} (hanswer : l.answer = none) (hheld : l.held = none) :
    { s with line := l.resting }.LineLaw := by
  cases hbeacon : l.beacon with
  | none => simp [State.LineLaw, LineController.resting, hbeacon, hanswer, hheld]
  | some number => simp [State.LineLaw, LineController.resting, hbeacon, hanswer, hheld]

theorem lineLaw_receptive {s : State} (hs : s.LineLaw) (h : Receptive s.line) :
    s.line.answer = none ∧ s.line.held = none := by
  unfold State.LineLaw at hs
  rcases h with h | ⟨r, h⟩
  · simp only [h] at hs
    exact ⟨hs.1, hs.2.2⟩
  · simpa only [h] using hs

theorem lineLaw_requested {s : State} (hs : s.LineLaw) (number : Word16) :
    { s with line := s.line.requested number }.LineLaw := by
  unfold State.LineLaw at hs
  split at hs <;> next hstate => simp_all [State.LineLaw, LineController.requested]

theorem lineLaw_cancelled {s : State} (hs : s.LineLaw) : { s with line := s.line.cancelled }.LineLaw := by
  unfold State.LineLaw at hs
  split at hs <;> next hstate => simp_all [State.LineLaw, LineController.cancelled]

theorem lineLaw_of_move {s : State} {l : LineController} (hs : s.LineLaw) (h : LineMove s.line l) :
    { s with line := l }.LineLaw := by
  cases h with
  | receive frame h =>
    have hfree := lineLaw_receptive hs h
    exact hfree
  | rest h => exact lineLaw_resting (lineLaw_receptive hs h).1 (lineLaw_receptive hs h).2
  | request number => exact lineLaw_requested hs number
  | cancel => exact lineLaw_cancelled hs
  | echo h => rename_i claim _ _ _; cases claim <;> simpa only [State.LineLaw, h] using hs
  | send wire h =>
    rename_i claim _ _
    cases claim
    · simpa only [State.LineLaw, h] using hs
    · simp only [State.LineLaw, h] at hs
      exact ⟨hs.1, hs.2.1⟩
  | consume h =>
    simp only [State.LineLaw, h] at hs
    exact lineLaw_resting rfl hs.2
  | beaconSent h =>
    simp only [State.LineLaw, h] at hs
    exact lineLaw_resting hs.1 rfl
  | release => exact ⟨rfl, rfl, rfl⟩
  | damage | rate | gap | latch | dropLatch | settle => exact hs

/-- R18: voiding the answer in flight leaves it in flight. -/
theorem lineLaw_afterRemoval {s : State} (hs : s.LineLaw) (i : SlotNo) (r : Record) : (s.afterRemoval i r).LineLaw := by
  unfold State.LineLaw at hs ⊢
  show match s.line.state with | _ => _
  split at hs <;> next hstate => simp_all [State.afterRemoval]

theorem change_keeps_lineLaw {s t : State} (hs : s.LineLaw) (h : Change s t) : t.LineLaw := by
  cases h
  case line h => exact lineLaw_of_move hs h
  case answer h _ => exact ⟨rfl, (lineLaw_receptive hs h).2⟩
  case remove => exact lineLaw_afterRemoval hs _ _
  case reset port => exact lineLaw_reset
  all_goals exact hs

/-- Settles O58: the moves of the line controller keep its law, a frame that is answered included. -/
theorem lineLawIsKept : Obligations.LineLawIsKept := fun _ _ hs h =>
  kept_by_step (P := State.LineLaw) (fun _ _ => change_keeps_lineLaw) (fun _ _ hu => hu) hs h

end Sys2Proof.Proofs.KeptLaws
end

section
/-! PROOFS. The delivery law of records (R5, R18, R41) and the laws of the node table (R48, R63, R66, R69): what each change does to them. -/

namespace Sys2Proof.Proofs.KeptLaws

open Sys2Proof.Machine Sys2Proof.Laws Sys2Proof.Proofs.Changes

/-! ## Delivery (R5, R18, R41) -/

theorem answerBacked_iff (s : State) :
    s.AnswerBacked ↔ ∀ a ∈ s.line.answer, a.voided = false → Backed s a.answer := by
  refine forall₃_congr fun a _ _ => ?_
  cases a.answer with
  | level k i generation seq level t =>
    cases hr : (s.slot i).record <;> simp [Backed, hr]
  | _ => rfl

/-- The law is kept where the records stay delivered in order, the answer in flight is one that was, and the record
behind it keeps its generation and its live level. -/
theorem deliveryLaw_of_backed {t : State} (hrecords : ∀ i, ∀ r ∈ (t.slot i).record, r.Delivery)
    (hanswers : ∀ a ∈ t.line.answer, a.voided = false → Backed t a.answer) : t.DeliveryLaw :=
  ⟨hrecords, (answerBacked_iff t).2 hanswers⟩

theorem backed_of_records {s t : State} {a : Answer} (h : Backed s a)
    (hkept : ∀ i r, a.slot? = some i → (s.slot i).record = some r →
      ∃ r', (t.slot i).record = some r' ∧ r'.generation = r.generation
        ∧ (r.liveLevel.isSome = true → r'.liveLevel.isSome = true)) : Backed t a := by
  cases a with
  | level k i generation seq level reportTaken =>
    obtain ⟨r, hr, hgeneration, hlive⟩ := h
    obtain ⟨r', hr', hgeneration', hlive'⟩ := hkept i r rfl hr
    exact ⟨r', hr', hgeneration'.trans hgeneration, hlive' hlive⟩
  | _ => trivial

theorem deliveryLaw_setRecord {s : State} (hs : s.DeliveryLaw) {i : SlotNo} {r r' : Record}
    (hr : (s.slot i).record = some r) (hgeneration : r'.generation = r.generation)
    (hlive : r.liveLevel.isSome = true → r'.liveLevel.isSome = true) (hdelivery : r'.Delivery) :
    (s.setRecord i r').DeliveryLaw := by
  obtain ⟨hrecords, hbacked⟩ := hs
  refine deliveryLaw_of_backed (fun j x hx => ?_) fun a ha hvalid => ?_
  · rw [slot_setRecord] at hx
    split at hx
    · cases hx
      exact hdelivery
    · exact hrecords j x hx
  · refine backed_of_records ((answerBacked_iff s).1 hbacked a ha hvalid) fun j x _ hx => ?_
    rw [slot_setRecord]
    split
    · next hij =>
      subst hij
      rw [hr] at hx
      cases hx
      exact ⟨r', rfl, hgeneration, hlive⟩
    · exact ⟨x, hx, rfl, id⟩

theorem requested_answer (l : LineController) (number : Word16) : (l.requested number).answer = l.answer := by
  unfold LineController.requested
  split <;> rfl

theorem cancelled_answer (l : LineController) : l.cancelled.answer = l.answer := by
  unfold LineController.cancelled
  split <;> rfl

/-- By itself the line controller puts no new answer in flight. -/
theorem lineMove_answer {l l' : LineController} (h : LineMove l l') : ∀ a ∈ l'.answer, a ∈ l.answer := by
  cases h with
  | request number => rw [requested_answer]; exact fun _ => id
  | cancel => rw [cancelled_answer]; exact fun _ => id
  | consume | release => exact nofun
  | receive | rest | damage | echo | send | beaconSent | rate | gap | latch | dropLatch | settle => exact fun _ => id

theorem delivery_load (mask : Byte) {r : Record} (h : r.Delivery) : (r.load mask).Delivery := by
  unfold Record.load
  split
  · exact ⟨nofun, nofun⟩
  · exact h

theorem load_live (mask : Byte) {r : Record} (h : r.liveLevel.isSome = true) :
    (r.load mask).liveLevel.isSome = true := by
  unfold Record.load
  split
  · next hpromotable =>
    simp only [Record.promotable, Bool.and_eq_true] at hpromotable
    exact hpromotable.2
  · exact h

theorem load_generation (mask : Byte) (r : Record) : (r.load mask).generation = r.generation := by
  unfold Record.load
  split <;> rfl

theorem slot_load (s : State) (mask : Byte) (i : SlotNo) : (s.load mask).slot i = (s.slot i).load mask := by
  simp [State.slot, State.load]

theorem deliveryLaw_load {s : State} (hs : s.DeliveryLaw) (mask : Byte) : (s.load mask).DeliveryLaw := by
  obtain ⟨hrecords, hbacked⟩ := hs
  refine deliveryLaw_of_backed (fun i x hx => ?_) fun a ha hvalid => ?_
  · rw [slot_load] at hx
    obtain ⟨r, hr, rfl⟩ := Option.map_eq_some_iff.1 hx
    exact delivery_load mask (hrecords i r hr)
  · refine backed_of_records ((answerBacked_iff s).1 hbacked a ha hvalid) fun i r _ hr => ?_
    refine ⟨r.load mask, ?_, load_generation mask r, load_live mask⟩
    rw [slot_load, Slot.load, hr]
    rfl

/-- R18: the removal voids the answer built from the record, and leaves the others backed. -/
theorem deliveryLaw_afterRemoval {s : State} (hs : s.DeliveryLaw) (i : SlotNo) (r : Record) :
    (s.afterRemoval i r).DeliveryLaw := by
  obtain ⟨hrecords, hbacked⟩ := hs
  have hslot (j : SlotNo) : (s.afterRemoval i r).slot j = if i = j then { s.slot i with record := none } else s.slot j :=
    slot_setSlot s i j _
  refine deliveryLaw_of_backed (fun j x hx => ?_) fun a ha hvalid => ?_
  · rw [hslot] at hx
    split at hx
    · cases hx
    · exact hrecords j x hx
  · obtain ⟨b, hb, rfl⟩ := Option.map_eq_some_iff.1 ha
    simp only [InFlight.voidBy, Bool.or_eq_false_iff] at hvalid
    refine backed_of_records ((answerBacked_iff s).1 hbacked b hb hvalid.1) fun j x hj hx => ⟨x, ?_, rfl, id⟩
    have hne : i ≠ j := by
      rintro rfl
      have hnamed : b.answer.slot? = some i := hj
      simp [hnamed] at hvalid
    rw [hslot, if_neg hne]
    exact hx

/-- R13: a new record is neither sent nor delivered, and no answer names the slot that was empty. -/
theorem deliveryLaw_place {s : State} (hs : s.DeliveryLaw) {i : SlotNo} (hempty : (s.slot i).record = none)
    (a : InsertArguments) : (s.place i a).DeliveryLaw := by
  obtain ⟨hrecords, hbacked⟩ := hs
  have hslot (j : SlotNo) : (s.place i a).slot j =
      if i = j then ⟨(s.slot i).generation + 1, some (a.record ((s.slot i).generation + 1))⟩ else s.slot j :=
    slot_setSlot s i j _
  refine deliveryLaw_of_backed (fun j x hx => ?_) fun b hb hvalid => ?_
  · rw [hslot] at hx
    split at hx
    · cases hx
      exact ⟨nofun, nofun⟩
    · exact hrecords j x hx
  · refine backed_of_records ((answerBacked_iff s).1 hbacked b hb hvalid) fun j x _ hx => ⟨x, ?_, rfl, id⟩
    have hne : i ≠ j := by
      rintro rfl
      rw [hempty] at hx
      cases hx
    rw [hslot, if_neg hne]
    exact hx

theorem slot_reset (i : SlotNo) : State.reset.slot i = ⟨0, none⟩ := by
  simp [State.slot, State.reset, Directory.reset]

theorem deliveryLaw_reset (port : HostPort) (s : State) : (s.resetWith port).DeliveryLaw := by
  refine ⟨fun i r hr => ?_, nofun⟩
  have hslot : (s.resetWith port).slot i = ⟨0, none⟩ := slot_reset i
  rw [hslot] at hr
  cases hr

theorem change_keeps_deliveryLaw {s t : State} (hs : s.DeliveryLaw) (h : Change s t) : t.DeliveryLaw := by
  obtain ⟨hrecords, hbacked⟩ := id hs
  have hbacked := (answerBacked_iff s).1 hbacked
  cases h
  case line h => exact deliveryLaw_of_backed hrecords fun a ha => hbacked a (lineMove_answer h a ha)
  case answer h hnew =>
    refine deliveryLaw_of_backed hrecords fun a ha _ => ?_
    cases ha
    exact hnew
  case raiseRecord i x _ hx _ =>
    have hdelivery : x.Delivery := hrecords i x hx
    exact deliveryLaw_setRecord hs hx rfl id hdelivery
  case settleRecord i x _ hx _ =>
    have hdelivery : x.Delivery := hrecords i x hx
    exact deliveryLaw_setRecord hs hx rfl id hdelivery
  case place hempty _ _ => exact deliveryLaw_place hs hempty _
  case remove => exact deliveryLaw_afterRemoval hs _ _
  case record hr h => exact deliveryLaw_setRecord hs hr h.generation h.live (h.delivery (hrecords _ _ hr))
  case sent hr h =>
    obtain ⟨x, hx, -, hlive⟩ := hbacked _ h rfl
    rw [hr] at hx
    cases hx
    exact deliveryLaw_setRecord hs hr rfl id ⟨fun _ => rfl, fun _ => hlive⟩
  case load => exact deliveryLaw_load hs _
  case reset => exact deliveryLaw_reset _ s
  all_goals exact hs

/-- Settles O55: each record keeps its law, and a record is marked sent only by a LEVEL answer that names its live level. -/
theorem deliveryLawIsKept : Obligations.DeliveryLawIsKept := fun _ _ hs h =>
  kept_by_step (P := State.DeliveryLaw) (fun _ _ => change_keeps_deliveryLaw) (fun _ _ hu => hu) hs h

/-! ## The node table (R48, R63) -/

theorem lawful_reset : NodeEntry.reset.Lawful := ⟨Nat.zero_le _, nofun, rfl⟩

/-- R48: the reasons and the record count of an entry in use are free. -/
theorem lawful_of_used {e : NodeEntry} (h : e.Lawful) (hfree : e.state ≠ .free) (reasons : NodeReasons) (count : Nat) :
    { e with reasons := reasons, recordCount := count }.Lawful := by
  obtain ⟨hsilence, hoffer, hstate⟩ := h
  refine ⟨hsilence, hoffer, ?_⟩
  cases hcase : e.state <;> simp only [hcase] at hstate ⊢
  case free => exact absurd hcase hfree
  all_goals exact hstate

theorem lawful_free {e : NodeEntry} (h : e.Lawful) (hfree : e.state = .free) : e = .reset := by
  obtain ⟨-, -, hstate⟩ := h
  simpa only [hfree] using hstate

/-- R52: the entry that OFFER reserves. -/
theorem lawful_offered {e : NodeEntry} (h : e.Lawful) (hfree : e.state = .free) {w : WindowArguments}
    (hlifetime : w.first.toNat ≤ 4095) : (offeredEntry e w).Lawful := by
  rw [lawful_free h hfree]
  refine ⟨Nat.zero_le _, fun k hk => ?_, rfl, rfl, rfl⟩
  simp only [offeredEntry] at hk
  split at hk
  · cases hk
  · cases hk
    omega

/-- R62 to R65: an entry that is counted. -/
theorem lawful_cycleStart {e : NodeEntry} (h : e.Lawful) : e.cycleStart.Lawful := by
  obtain ⟨hsilence, hoffer, hstate⟩ := id h
  rw [entry_cycleStart_eq h]
  unfold NodeEntry.afterCycle
  cases hcase : e.state <;> simp only [hcase] at hstate ⊢
  case free => exact h
  case retiring => exact h
  case offered =>
    refine ⟨hsilence, fun k hk => ?_, by simpa only [hcase] using hstate⟩
    dsimp only at hk
    split at hk
    · cases hk
    · next hne =>
      obtain ⟨x, hx, rfl⟩ := Option.map_eq_some_iff.1 hk
      have hrange := hoffer x hx
      have hx1 : x ≠ 1 := fun h1 => hne (h1 ▸ hx)
      omega
  case assigned =>
    obtain ⟨hidentity, hlow, hhigh, hzero⟩ := hstate
    refine ⟨hsilence, hoffer, ?_⟩
    by_cases hone : e.confirmRemaining = 1
    · simp [hone, hidentity, hzero]
    · simp only [if_neg hone]
      exact ⟨hidentity, by omega, by omega, hzero⟩
  case bound =>
    refine ⟨Nat.min_le_right _ _, hoffer, ?_⟩
    cases e.raisedAtCycle.silent <;> exact hstate
  case silent => exact ⟨Nat.min_le_right _ _, hoffer, by simpa only [hcase] using hstate⟩

theorem node_countNodes (s : State) (n : NodeNo) : s.countNodes.node n = (s.node n).cycleStart := by
  simp [State.node, State.countNodes]

/-- R62 to R65: counting neither offers nor releases an entry, and leaves its identity and its records. -/
theorem cycleStart_keeps (e : NodeEntry) :
    (e.cycleStart.state = .free ↔ e.state = .free) ∧ (e.state = .retiring → e.cycleStart.state = .retiring)
      ∧ e.cycleStart.identity = e.identity ∧ e.cycleStart.recordCount = e.recordCount := by
  unfold NodeEntry.cycleStart NodeEntry.counted
  cases hstate : e.state
  case assigned => cases e.confirmEnds <;> simp
  case bound => cases e.lapses <;> simp
  all_goals simp [hstate]

theorem nodeLaw_setNode {s : State} (hs : s.NodeLaw) {n : NodeNo} {e : NodeEntry} (he : e.Lawful) :
    (s.setNode n e).NodeLaw := by
  intro m
  rw [node_setNode]
  split
  · exact he
  · exact hs m

theorem node_reset (n : NodeNo) : State.reset.node n = .reset := by
  simp [State.node, State.reset]

theorem lawful_minus {e : NodeEntry} (h : e.Lawful) (taken : NodeReasons) :
    { e with reasons := e.reasons.minus taken }.Lawful := by
  by_cases hfree : e.state = .free
  · rw [lawful_free h hfree]
    exact lawful_reset
  · exact lawful_of_used h hfree _ _

theorem lawful_fewer {e : NodeEntry} (h : e.Lawful) : { e with recordCount := e.recordCount - 1 }.Lawful := by
  by_cases hfree : e.state = .free
  · rw [lawful_free h hfree]
    exact lawful_reset
  · exact lawful_of_used h hfree _ _

theorem change_keeps_nodeLaw {s t : State} (hs : s.NodeLaw) (h : Change s t) : t.NodeLaw := by
  cases h
  case node n e h => exact nodeLaw_setNode hs (h.lawful (hs n))
  case offer n w hfree _ _ hlifetime => exact nodeLaw_setNode hs (lawful_offered (hs n) hfree hlifetime)
  case release n _ _ => exact nodeLaw_setNode (s := s) hs lawful_reset
  case countNodes => exact fun n => node_countNodes s n ▸ lawful_cycleStart (hs n)
  case raiseNode n r hfree _ => exact nodeLaw_setNode (s := s) hs (lawful_of_used (hs n) hfree _ _)
  case settleNode n taken _ => exact nodeLaw_setNode (s := s) hs (lawful_minus (hs n) taken)
  case place i a _ _ hfree => exact nodeLaw_setNode (s := s) hs (lawful_of_used (hs a.key.node) hfree _ _)
  case remove i r _ _ => exact nodeLaw_setNode (s := s) hs (lawful_fewer (hs r.node))
  case reset => exact fun n => (node_reset n).symm ▸ lawful_reset
  all_goals exact hs

/-! ## Identities and the answer range (R48, R117) -/

/-- No entry comes into use, and the entries in use keep their identities. -/
def NoneOffered (s t : State) : Prop :=
  ∀ n : NodeNo, (t.node n).state ≠ .free → (s.node n).state ≠ .free ∧ (t.node n).identity = (s.node n).identity

theorem noneOffered_setNode {s : State} {n : NodeNo} {e : NodeEntry}
    (h : e.state ≠ .free → (s.node n).state ≠ .free ∧ e.identity = (s.node n).identity) :
    NoneOffered s (s.setNode n e) := by
  intro m
  rw [node_setNode]
  split
  · next hnm => exact hnm ▸ h
  · exact fun hm => ⟨hm, rfl⟩

theorem identityLaw_of_noneOffered {s t : State} (hs : s.IdentityLaw) (h : NoneOffered s t) : t.IdentityLaw := by
  intro n m hn hm hsome heq
  obtain ⟨hn', hidn⟩ := h n hn
  obtain ⟨hm', hidm⟩ := h m hm
  exact hs n m hn' hm' (hidn ▸ hsome) (hidn ▸ hidm ▸ heq)

theorem rangeLaw_of_noneOffered {s t : State} (hs : s.RangeLaw)
    (hline : t.line.rangeLow = s.line.rangeLow ∧ t.line.rangeHigh = s.line.rangeHigh) (h : NoneOffered s t) :
    t.RangeLaw := by
  obtain ⟨hlow, hle, hhigh, hwithin⟩ := hs
  unfold State.RangeLaw
  rw [hline.1, hline.2]
  exact ⟨hlow, hle, hhigh, fun n hn => hwithin n (h n hn).1⟩

/-- Only OFFER brings an entry into use. -/
theorem change_noneOffered {s t : State} (h : Change s t) :
    NoneOffered s t ∨ ∃ (n : NodeNo) (w : WindowArguments), t = s.setNode n (offeredEntry (s.node n) w)
      ∧ s.identityHolder w.identity = none
      ∧ s.line.rangeLow.toNat ≤ nodeAddress n ∧ nodeAddress n ≤ s.line.rangeHigh.toNat := by
  cases h
  case offer n w _ hrange hnew _ => exact .inr ⟨n, w, rfl, hnew, hrange⟩
  case node n e h => exact .inl (noneOffered_setNode fun he => ⟨mt h.free.2 he, h.identity⟩)
  case release n _ _ => exact .inl (noneOffered_setNode (s := s) fun he => absurd rfl he)
  case countNodes =>
    refine .inl fun n hn => ?_
    obtain ⟨hfree, -, hidentity, -⟩ := cycleStart_keeps (s.node n)
    rw [node_countNodes] at hn ⊢
    exact ⟨mt hfree.2 hn, hidentity⟩
  case raiseNode n _ hfree _ => exact .inl (noneOffered_setNode (s := s) fun _ => ⟨hfree, rfl⟩)
  case settleNode => exact .inl (noneOffered_setNode (s := s) fun he => ⟨he, rfl⟩)
  case place => exact .inl (noneOffered_setNode (s := s) fun he => ⟨he, rfl⟩)
  case remove => exact .inl (noneOffered_setNode (s := s) fun he => ⟨he, rfl⟩)
  case reset =>
    refine .inl fun n hn => absurd ?_ hn
    exact congrArg NodeEntry.state (node_reset n)
  all_goals exact .inl fun n hn => ⟨hn, rfl⟩

theorem identityHolder_none_iff {s : State} {v : Identity} :
    s.identityHolder v = none ↔ ∀ m : NodeNo, (s.node m).state ≠ .free → (s.node m).identity ≠ some v := by
  refine ⟨fun h m hm hv => ?_, identityHolder_none⟩
  have hmiss := List.find?_eq_none.1 h m (List.mem_finRange m)
  simp [hm, hv] at hmiss

theorem identityLaw_offer {s : State} (hs : s.IdentityLaw) {n : NodeNo} {w : WindowArguments}
    (hnew : s.identityHolder w.identity = none) : (s.setNode n (offeredEntry (s.node n) w)).IdentityLaw := by
  have hunheld := identityHolder_none_iff.1 hnew
  intro a b ha hb hsome heq
  rw [node_setNode] at ha hsome heq
  rw [node_setNode] at hb heq
  split at ha <;> split at hb
  · next h1 h2 => exact h1.symm.trans h2
  · next h1 h2 =>
    rw [if_pos h1, if_neg h2] at heq
    exact absurd heq.symm (hunheld b hb)
  · next h1 h2 =>
    rw [if_neg h1, if_pos h2] at heq
    exact absurd heq (hunheld a ha)
  · next h1 h2 =>
    rw [if_neg h1] at hsome heq
    rw [if_neg h2] at heq
    exact hs a b ha hb hsome heq

theorem change_keeps_identityLaw {s t : State} (hs : s.IdentityLaw) (h : Change s t) : t.IdentityLaw := by
  obtain hnone | ⟨n, w, rfl, hnew, -⟩ := change_noneOffered h
  · exact identityLaw_of_noneOffered hs hnone
  · exact identityLaw_offer hs hnew

theorem lineMove_range {l l' : LineController} (h : LineMove l l') :
    l'.rangeLow = l.rangeLow ∧ l'.rangeHigh = l.rangeHigh := by
  cases h
  case request number => unfold LineController.requested; split <;> exact ⟨rfl, rfl⟩
  case cancel => unfold LineController.cancelled; split <;> exact ⟨rfl, rfl⟩
  all_goals exact ⟨rfl, rfl⟩

theorem rangeLaw_reset : State.reset.RangeLaw :=
  ⟨by decide, by decide, by decide, fun n hn => absurd (congrArg NodeEntry.state (node_reset n)) hn⟩

theorem rangeLaw_offer {s : State} (hs : s.RangeLaw) {n : NodeNo} (w : WindowArguments)
    (hrange : s.line.rangeLow.toNat ≤ nodeAddress n ∧ nodeAddress n ≤ s.line.rangeHigh.toNat) :
    (s.setNode n (offeredEntry (s.node n) w)).RangeLaw := by
  obtain ⟨hlow, hle, hhigh, hwithin⟩ := hs
  refine ⟨hlow, hle, hhigh, fun m hm => ?_⟩
  rw [node_setNode] at hm
  split at hm
  · next hnm => exact hnm ▸ hrange
  · exact hwithin m hm

/-- Only a write of the answer range and a reset change it. -/
theorem change_keeps_rangeLaw {s t : State} (hs : s.RangeLaw) (h : Change s t) : t.RangeLaw := by
  obtain hnone | ⟨n, w, rfl, -, hrange⟩ := change_noneOffered h
  · cases h
    case line h => exact rangeLaw_of_noneOffered hs (lineMove_range h) hnone
    case range hlow hle hhigh h => exact ⟨hlow, hle, hhigh, (entriesWithin_iff s _ _).1 h⟩
    case reset => exact rangeLaw_reset
    all_goals exact rangeLaw_of_noneOffered hs ⟨rfl, rfl⟩ hnone
  · exact rangeLaw_offer hs w hrange

/-! ## The cascade (R66, R69) -/

/-- R66, R69: the entry of a running cascade. -/
def Draining (e : NodeEntry) : Prop := e.state = .retiring ∧ e.recordCount ≠ 0

theorem cascadeLaw_iff (s : State) :
    s.CascadeLaw ↔ ∀ n k, s.command.state = .cascading n k → Draining (s.node n) := by
  unfold State.CascadeLaw
  split
  · next h => simp [h]
  · next h => simp [h]
  · next n k h => simp [h, Draining]

theorem draining_setNode {s : State} {n m : NodeNo} {e : NodeEntry} (h : Draining (s.node m))
    (he : n = m → Draining (s.node n) → Draining e) : Draining ((s.setNode n e).node m) := by
  rw [node_setNode]
  split
  · next hnm => exact he hnm (hnm ▸ h)
  · exact h

theorem change_keeps_cascadeLaw {s t : State} (hs : s.CascadeLaw) (h : Change s t) : t.CascadeLaw := by
  have hs := (cascadeLaw_iff s).1 hs
  refine (cascadeLaw_iff t).2 ?_
  cases h
  case command c h =>
    intro n k hk
    obtain ⟨j, hj⟩ | hdraining := h n k hk
    · exact hs n j hj
    · exact hdraining
  case node n e h =>
    exact fun m k hk => draining_setNode (hs m k hk) fun _ hd => ⟨h.retiring hd.1, h.recordCount ▸ hd.2⟩
  case offer n w hfree _ _ _ =>
    exact fun m k hk => draining_setNode (hs m k hk) fun _ hd => absurd (hfree.symm.trans hd.1) nofun
  case release n _ hcalm => exact fun m k hk => absurd hk (hcalm m k)
  case countNodes =>
    intro m k hk
    obtain ⟨-, hretiring, -, hcount⟩ := cycleStart_keeps (s.node m)
    obtain ⟨hstate, hne⟩ := hs m k hk
    exact node_countNodes s m ▸ ⟨hretiring hstate, hcount ▸ hne⟩
  case raiseNode => exact fun m k hk => draining_setNode (s := s) (hs m k hk) fun _ hd => hd
  case settleNode => exact fun m k hk => draining_setNode (s := s) (hs m k hk) fun _ hd => hd
  case place =>
    exact fun m k hk => draining_setNode (s := s) (hs m k hk) fun _ hd => ⟨hd.1, Nat.succ_ne_zero _⟩
  case remove i r _ hleft =>
    intro m k hk
    refine ⟨?_, hleft m k hk⟩
    have hstate : ((s.afterRemoval i r).node m).state = (s.node m).state := by
      show ((s.setNode r.node _).node m).state = _
      rw [node_setNode]
      split
      · next hnm => rw [hnm]
      · rfl
    exact hstate.trans (hs m k hk).1
  case reset => exact fun _ _ hk => nomatch hk
  all_goals exact hs

/-- Settles O56: the entries' own laws by `NodeMove`; identities and the range, since only OFFER brings an entry into
use; and the cascade, whose entry stays RETIRING until it has no record. -/
theorem nodeTableLawsAreKept : Obligations.NodeTableLawsAreKept := fun _ _ hs h =>
  kept_by_step (P := fun u => u.NodeLaw ∧ u.IdentityLaw ∧ u.RangeLaw ∧ u.CascadeLaw)
    (fun _ _ ⟨hnode, hidentity, hrange, hcascade⟩ hchange => ⟨change_keeps_nodeLaw hnode hchange,
      change_keeps_identityLaw hidentity hchange, change_keeps_rangeLaw hrange hchange,
      change_keeps_cascadeLaw hcascade hchange⟩)
    (fun _ _ hu => hu) hs h

end Sys2Proof.Proofs.KeptLaws
end

section
/-! PROOFS. The attention law (R119, R120, R123, R125) and the laws of the directory (R1 to R3, R49): what each change does to them. -/

namespace Sys2Proof.Proofs.KeptLaws

open Sys2Proof.Machine Sys2Proof.Laws Sys2Proof.Proofs.Changes

/-! ## The attention list as a set without repetition (R119) -/

/-- R119: the subject's reason set is not empty. -/
def Raised (s : State) : Subject → Prop
  | .record i => (s.recordReasons i).isEmpty = false
  | .node n => (s.node n).reasons.isEmpty = false

/-- The list holds exactly the subjects with the property, each once. -/
def Lists (list : List Subject) (P : Subject → Prop) : Prop := (∀ x, x ∈ list ↔ P x) ∧ list.Nodup

theorem attentionLaw_iff (s : State) : s.AttentionLaw ↔ Lists s.attention (Raised s) := by
  refine ⟨fun ⟨hrecords, hnodes, hnodup⟩ => ⟨fun x => ?_, hnodup⟩, fun ⟨hmem, hnodup⟩ =>
    ⟨fun i => hmem (.record i), fun n => hmem (.node n), hnodup⟩⟩
  cases x with
  | record i => exact hrecords i
  | node n => exact hnodes n

section Lists

variable {list : List Subject} {P Q : Subject → Prop} {x : Subject}

theorem lists_congr (h : Lists list P) (hPQ : ∀ y, Q y ↔ P y) : Lists list Q :=
  ⟨fun y => (h.1 y).trans (hPQ y).symm, h.2⟩

theorem lists_append {more : List Subject} (h : Lists list P) (hmore : Lists more Q) (hdisjoint : ∀ y, P y → ¬ Q y) :
    Lists (list ++ more) (fun y => P y ∨ Q y) := by
  refine ⟨fun y => by rw [List.mem_append, h.1, hmore.1], List.nodup_append'.2 ⟨h.2, hmore.2, ?_⟩⟩
  exact fun y hy hy' => hdisjoint y ((h.1 y).1 hy) ((hmore.1 y).1 hy')

theorem lists_singleton (x : Subject) : Lists [x] (· = x) := ⟨fun _ => List.mem_singleton, List.nodup_singleton x⟩

/-- R120: a subject that gets a reason joins the list at its tail, unless it is there. -/
theorem lists_join {wasEmpty : Bool} (h : Lists list P) (hempty : wasEmpty = false ↔ P x) :
    Lists (if wasEmpty then list ++ [x] else list) (fun y => P y ∨ y = x) := by
  cases wasEmpty with
  | true => exact lists_append h (lists_singleton x) fun y hy hyx => nomatch hempty.2 (hyx ▸ hy)
  | false => exact lists_congr h fun y => ⟨fun hy => hy.elim id fun hyx => hyx ▸ hempty.1 rfl, .inl⟩

/-- R125: a subject leaves the list. -/
theorem lists_leave (h : Lists list P) (x : Subject) : Lists (list.filter (· != x)) (fun y => P y ∧ y ≠ x) :=
  ⟨fun y => by rw [List.mem_filter, h.1, bne_iff_ne], h.2.filter _⟩

/-- R123: a subject whose reasons are settled moves to the tail with those that are left, or leaves the list. -/
theorem lists_requeue (h : Lists list P) (x : Subject) (left : Bool) :
    Lists (requeue list x left) (fun y => (P y ∧ y ≠ x) ∨ (y = x ∧ left = true)) := by
  unfold requeue
  cases left with
  | true =>
    exact lists_congr (lists_append (lists_leave h x) (lists_singleton x) fun y hy hyx => hy.2 hyx)
      fun y => by simp
  | false => exact lists_congr (lists_leave h x) fun y => by simp

end Lists

/-! ## What raises a subject -/

section Raised

variable {s : State}

theorem raised_setNode (s : State) (n : NodeNo) (e : NodeEntry) (x : Subject) :
    Raised (s.setNode n e) x ↔ (Raised s x ∧ x ≠ .node n) ∨ (x = .node n ∧ e.reasons.isEmpty = false) := by
  cases x with
  | record i => simp [Raised, State.recordReasons]
  | node m =>
    simp only [Raised, node_setNode]
    by_cases hnm : n = m
    · simp [hnm]
    · simp [hnm, Ne.symm hnm]

theorem raised_setNode_same {n : NodeNo} {e : NodeEntry} (h : e.reasons = (s.node n).reasons) (x : Subject) :
    Raised (s.setNode n e) x ↔ Raised s x := by
  rw [raised_setNode, h]
  by_cases hx : x = .node n
  · simp [hx, Raised]
  · simp [hx]

/-- The reasons of the record in a slot. -/
def slotReasons (x : Slot) : RecordReasons :=
  match x.record with
  | some r => r.reasons
  | none => .none

theorem raised_setSlot (s : State) (i : SlotNo) (v : Slot) (x : Subject) :
    Raised (s.setSlot i v) x ↔ (Raised s x ∧ x ≠ .record i) ∨ (x = .record i ∧ (slotReasons v).isEmpty = false) := by
  cases x with
  | node n => simp [Raised]
  | record j =>
    show (slotReasons ((s.setSlot i v).slot j)).isEmpty = false ↔
      ((slotReasons (s.slot j)).isEmpty = false ∧ Subject.record j ≠ .record i) ∨ _
    rw [slot_setSlot]
    by_cases hij : i = j
    · simp [hij]
    · simp [hij, Ne.symm hij]

theorem raised_setSlot_same {i : SlotNo} {v : Slot} (h : slotReasons v = slotReasons (s.slot i)) (x : Subject) :
    Raised (s.setSlot i v) x ↔ Raised s x := by
  rw [raised_setSlot, h]
  by_cases hx : x = .record i
  · subst hx
    exact ⟨fun h => h.elim (fun h => absurd rfl h.2) (·.2), fun h => .inr ⟨rfl, h⟩⟩
  · simp [hx]

theorem slotReasons_load (mask : Byte) (v : Slot) : slotReasons (v.load mask) = slotReasons v := by
  unfold slotReasons Slot.load
  cases v.record with
  | none => rfl
  | some r =>
    show (r.load mask).reasons = r.reasons
    unfold Record.load
    split <;> rfl

theorem raised_load (mask : Byte) (x : Subject) : Raised (s.load mask) x ↔ Raised s x := by
  cases x with
  | node n => rfl
  | record i =>
    show (slotReasons ((s.load mask).slot i)).isEmpty = false ↔ (slotReasons (s.slot i)).isEmpty = false
    rw [slot_load, slotReasons_load]

theorem slotReasons_some {v : Slot} {r : Record} (h : v.record = some r) : slotReasons v = r.reasons := by
  simp only [slotReasons, h]

theorem raised_record {i : SlotNo} {r : Record} (hr : (s.slot i).record = some r) :
    Raised s (.record i) ↔ r.reasons.isEmpty = false := by
  simp only [Raised, State.recordReasons, hr]

theorem nodeUnion_isEmpty (a b : NodeReasons) : (a.union b).isEmpty = (a.isEmpty && b.isEmpty) := by
  simp only [NodeReasons.union, NodeReasons.isEmpty, ← Bool.not_or]
  congr 1
  ac_rfl

theorem recordUnion_isEmpty (a b : RecordReasons) : (a.union b).isEmpty = (a.isEmpty && b.isEmpty) := by
  simp only [RecordReasons.union, RecordReasons.isEmpty, ← Bool.not_or]
  congr 1
  ac_rfl

/-- R4, R13: a new record has no reasons. -/
theorem raised_place {i : SlotNo} (hempty : (s.slot i).record = none) (a : InsertArguments) (x : Subject) :
    Raised (s.place i a) x ↔ Raised s x := by
  let v : Slot := ⟨(s.slot i).generation + 1, some (a.record ((s.slot i).generation + 1))⟩
  let e : NodeEntry := { s.node a.key.node with recordCount := (s.node a.key.node).recordCount + 1 }
  have hv : slotReasons v = slotReasons (s.slot i) := by simp only [slotReasons, hempty]; rfl
  have he : e.reasons = ((s.setSlot i v).node a.key.node).reasons := rfl
  calc Raised (s.place i a) x
    _ ↔ Raised ((s.setSlot i v).setNode a.key.node e) x := by cases x <;> rfl
    _ ↔ Raised (s.setSlot i v) x := raised_setNode_same he x
    _ ↔ Raised s x := raised_setSlot_same hv x

/-- R18: with its record a subject has lost its reasons. -/
theorem raised_afterRemoval (i : SlotNo) (r : Record) (x : Subject) :
    Raised (s.afterRemoval i r) x ↔ Raised s x ∧ x ≠ .record i := by
  let v : Slot := { s.slot i with record := none }
  let e : NodeEntry := { s.node r.node with recordCount := (s.node r.node).recordCount - 1 }
  have hv : (slotReasons v).isEmpty = true := rfl
  have he : e.reasons = ((s.setSlot i v).node r.node).reasons := rfl
  calc Raised (s.afterRemoval i r) x
    _ ↔ Raised ((s.setSlot i v).setNode r.node e) x := by cases x <;> rfl
    _ ↔ Raised (s.setSlot i v) x := raised_setNode_same he x
    _ ↔ _ := (raised_setSlot s i v x).trans (by simp [hv])

/-- R65: the nodes that get a first reason at a cycle start. -/
theorem lists_cycleJoiners (s : State) :
    Lists s.cycleJoiners (fun x => ∃ n, x = .node n ∧ (s.node n).joinsAtCycle = true) := by
  refine ⟨fun x => ?_, ?_⟩
  · simp only [State.cycleJoiners, List.mem_map, List.mem_filter, List.mem_finRange, true_and]
    exact ⟨fun ⟨n, hn, hx⟩ => ⟨n, hx.symm, hn⟩, fun ⟨n, hx, hn⟩ => ⟨n, hn, hx.symm⟩⟩
  · exact ((List.nodup_finRange 239).filter _).map fun _ _ h => Subject.node.inj h

theorem raised_countNodes (s : State) (x : Subject) :
    Raised s.countNodes x ↔ Raised s x ∨ ∃ n, x = .node n ∧ (s.node n).joinsAtCycle = true := by
  cases x with
  | record i => simp [Raised, State.recordReasons, State.slot, State.countNodes]
  | node n =>
    have hreasons : (s.countNodes.node n).reasons = (s.node n).reasons.union (s.node n).cycleReasons := by
      rw [node_countNodes]; rfl
    simp only [Raised, hreasons, nodeUnion_isEmpty, NodeEntry.joinsAtCycle, Subject.node.injEq, exists_eq_left']
    cases (s.node n).reasons.isEmpty <;> simp

end Raised

/-! ## The attention law -/

theorem lists_reset (s : State) (port : HostPort) : Lists (s.resetWith port).attention (Raised (s.resetWith port)) := by
  refine ⟨fun x => ⟨fun hx => absurd hx List.not_mem_nil, fun hx => ?_⟩, List.nodup_nil⟩
  cases x with
  | record i =>
    have hslot : (s.resetWith port).slot i = ⟨0, none⟩ := slot_reset i
    simp [Raised, State.recordReasons, hslot, RecordReasons.isEmpty, RecordReasons.none] at hx
  | node n =>
    have hnode : (s.resetWith port).node n = .reset := node_reset n
    simp [Raised, hnode, NodeEntry.reset, NodeReasons.isEmpty, NodeReasons.none] at hx

theorem change_keeps_attentionLaw {s t : State} (hs : s.AttentionLaw) (h : Change s t) : t.AttentionLaw := by
  have hs := (attentionLaw_iff s).1 hs
  refine (attentionLaw_iff t).2 ?_
  cases h
  case node n e h => exact lists_congr hs (raised_setNode_same h.reasons)
  case offer => exact lists_congr hs (raised_setNode_same rfl)
  case release n _ _ =>
    refine lists_congr (lists_leave hs (.node n)) fun y => (raised_setNode s n .reset y).trans ?_
    simp [NodeEntry.reset, NodeReasons.isEmpty, NodeReasons.none]
  case countNodes =>
    refine lists_congr (lists_append hs (lists_cycleJoiners s) fun y hy => ?_) (raised_countNodes s)
    rintro ⟨n, rfl, hn⟩
    have hempty : (s.node n).reasons.isEmpty = false := hy
    simp [NodeEntry.joinsAtCycle, hempty] at hn
  case raiseNode n r _ hr =>
    refine lists_congr (lists_join hs Iff.rfl) fun y => (raised_setNode s n _ y).trans ?_
    simp only [nodeUnion_isEmpty, hr, Bool.and_false, and_true]
    exact ⟨fun h => h.imp_left (·.1), fun h => (em (y = .node n)).elim .inr fun hne =>
      .inl ⟨h.resolve_right hne, hne⟩⟩
  case raiseRecord i x r hx hr =>
    refine lists_congr (lists_join hs (raised_record hx).symm) fun y => (raised_setSlot s i _ y).trans ?_
    simp only [slotReasons, recordUnion_isEmpty, hr, Bool.and_false, and_true]
    exact ⟨fun h => h.imp_left (·.1), fun h => (em (y = .record i)).elim .inr fun hne =>
      .inl ⟨h.resolve_right hne, hne⟩⟩
  case settleNode n taken _ =>
    refine lists_congr (lists_requeue hs _ _) fun y => (raised_setNode s n _ y).trans ?_
    simp
  case settleRecord i r taken hr _ =>
    refine lists_congr (lists_requeue hs _ _) fun y => (raised_setSlot s i _ y).trans ?_
    simp [slotReasons]
  case place i a hempty _ _ =>
    exact lists_congr hs (raised_place hempty a)
  case remove i r _ _ =>
    exact lists_congr (lists_leave hs (.record i)) (raised_afterRemoval i r)
  case record i r r' hr h =>
    exact lists_congr hs (raised_setSlot_same (h.reasons.trans (slotReasons_some hr).symm))
  case sent i r _ _ _ _ hr _ => exact lists_congr hs (raised_setSlot_same (slotReasons_some hr).symm)
  case load => exact lists_congr hs (raised_load _)
  case reset => exact lists_reset s _
  all_goals exact hs

/-- Settles O57: raising, settling and retiring a subject move it on the list as its reasons change. -/
theorem attentionLawIsKept : Obligations.AttentionLawIsKept := fun _ _ hs h =>
  kept_by_step (P := State.AttentionLaw) (fun _ _ => change_keeps_attentionLaw) (fun _ _ hu => hu) hs h

/-! ## The key index (R2, R3) -/

/-- The law of the key index is about the slots and the index alone. -/
theorem indexLaw_congr {s t : State} (hs : s.IndexLaw) (hindex : t.directory.index = s.directory.index)
    (hgeneration : ∀ i, (t.slot i).generation = (s.slot i).generation)
    (hrecord : ∀ i, (t.slot i).record.map (fun r => (r.key, r.generation)) =
      (s.slot i).record.map fun r => (r.key, r.generation)) : t.IndexLaw := by
  obtain ⟨hin, hout, hnodup⟩ := hs
  refine ⟨fun i r hr => ?_, fun e he => ?_, hindex ▸ hnodup⟩
  · have hmap := hrecord i
    rw [hr] at hmap
    obtain ⟨x, hx, hxr⟩ := Option.map_eq_some_iff.1 hmap.symm
    obtain ⟨hkey, hgen⟩ := Prod.mk.inj hxr
    obtain ⟨hmem, hxgen⟩ := hin i x hx
    exact ⟨hindex ▸ hkey ▸ hmem, hgen ▸ hgeneration i ▸ hxgen⟩
  · have hmap := hrecord e.slot
    have hold := hout e (hindex ▸ he)
    cases hx : (s.slot e.slot).record with
    | none => simp [hx] at hold
    | some x =>
      rw [hx] at hmap
      obtain ⟨r, hr, hrx⟩ := Option.map_eq_some_iff.1 hmap
      simp only [hx] at hold
      simp only [hr]
      exact (Prod.mk.inj hrx).1.trans hold

theorem indexLaw_setRecord {s : State} (hs : s.IndexLaw) {i : SlotNo} {r r' : Record}
    (hr : (s.slot i).record = some r) (hkey : r'.key = r.key) (hgeneration : r'.generation = r.generation) :
    (s.setRecord i r').IndexLaw := by
  refine indexLaw_congr hs rfl (fun j => ?_) fun j => ?_ <;> rw [slot_setRecord] <;> split
  · next hij => rw [hij]
  · rfl
  · next hij => rw [← hij, hr, Option.map_some, Option.map_some, hkey, hgeneration]
  · rfl

theorem load_key (mask : Byte) (r : Record) : (r.load mask).key = r.key := by
  unfold Record.load
  split <;> rfl

theorem indexLaw_load {s : State} (hs : s.IndexLaw) (mask : Byte) : (s.load mask).IndexLaw := by
  refine indexLaw_congr hs rfl (fun i => ?_) fun i => ?_ <;> rw [slot_load, Slot.load]
  rw [Option.map_map]
  congr 1
  funext r
  simp only [Function.comp_apply, load_key, load_generation]

/-- R2, R3: two slots hold two keys. -/
theorem slot_of_key {s : State} (hs : s.IndexLaw) {i j : SlotNo} {r x : Record} (hr : (s.slot i).record = some r)
    (hx : (s.slot j).record = some x) (hkey : x.key = r.key) : j = i := by
  have hlookup : s.lookupKey r.key = some (j, x) := (lookupKey_some hs).2 ⟨hx, hkey⟩
  rw [(lookupKey_some hs).2 ⟨hr, rfl⟩] at hlookup
  cases hlookup
  rfl

/-- R18: the removal takes the record and the one entry of its key. -/
theorem indexLaw_afterRemoval {s : State} (hs : s.IndexLaw) {i : SlotNo} {r : Record}
    (hr : (s.slot i).record = some r) : (s.afterRemoval i r).IndexLaw := by
  obtain ⟨hin, hout, hnodup⟩ := id hs
  have hslot (j : SlotNo) : (s.afterRemoval i r).slot j = if i = j then { s.slot i with record := none } else s.slot j :=
    slot_setSlot s i j _
  refine ⟨fun j x hx => ?_, fun e he => ?_, hnodup.sublist (List.filter_sublist.map _)⟩
  · rw [hslot] at hx ⊢
    split at hx
    · cases hx
    · next hij =>
      obtain ⟨hmem, hgeneration⟩ := hin j x hx
      have hkey : x.key ≠ r.key := fun hkey => hij (slot_of_key hs hr hx hkey).symm
      rw [if_neg hij]
      exact ⟨List.mem_filter.2 ⟨hmem, by simpa using hkey⟩, hgeneration⟩
  · obtain ⟨hmem, hkey⟩ := List.mem_filter.1 he
    have hold := hout e hmem
    have hne : i ≠ e.slot := by
      intro hie
      rw [← hie, hr] at hold
      simp [hold] at hkey
    rw [hslot, if_neg hne]
    exact hold

/-- R13: the new record's key enters the index, where it was not. -/
theorem indexLaw_place {s : State} (hs : s.IndexLaw) {i : SlotNo} {a : InsertArguments}
    (hempty : (s.slot i).record = none) (hkey : s.lookupKey a.key = none) : (s.place i a).IndexLaw := by
  have habsent := (lookupKey_none hs).1 hkey
  obtain ⟨hin, hout, hnodup⟩ := hs
  have hslot (j : SlotNo) : (s.place i a).slot j =
      if i = j then ⟨(s.slot i).generation + 1, some (a.record ((s.slot i).generation + 1))⟩ else s.slot j :=
    slot_setSlot s i j _
  refine ⟨fun j x hx => ?_, fun e he => ?_, List.nodup_cons.2 ⟨fun hmem => ?_, hnodup⟩⟩
  · rw [hslot] at hx ⊢
    split at hx
    · next hij =>
      cases hx
      rw [if_pos hij]
      exact ⟨hij ▸ List.mem_cons_self, rfl⟩
    · next hij =>
      obtain ⟨hmem, hgeneration⟩ := hin j x hx
      rw [if_neg hij]
      exact ⟨List.mem_cons_of_mem _ hmem, hgeneration⟩
  · rcases List.mem_cons.1 he with rfl | hmem
    · rw [hslot, if_pos rfl]
      rfl
    · have hold := hout e hmem
      have hne : i ≠ e.slot := by
        intro hie
        rw [← hie, hempty] at hold
        exact hold
      rw [hslot, if_neg hne]
      exact hold
  · obtain ⟨e, he, hek⟩ := List.mem_map.1 hmem
    have hold := hout e he
    cases hx : (s.slot e.slot).record with
    | none => simp [hx] at hold
    | some x =>
      simp only [hx] at hold
      exact habsent e.slot x hx (hold.trans hek)

theorem indexLaw_reset : State.reset.IndexLaw := by
  refine ⟨fun i r hr => ?_, fun e he => absurd he List.not_mem_nil, List.nodup_nil⟩
  rw [slot_reset] at hr
  cases hr

theorem change_keeps_indexLaw {s t : State} (hs : s.IndexLaw) (h : Change s t) : t.IndexLaw := by
  cases h
  case raiseRecord i x _ hx _ => exact indexLaw_setRecord (r' := { x with reasons := _ }) hs hx rfl rfl
  case settleRecord i x _ hx _ => exact indexLaw_setRecord (r' := { x with reasons := _ }) hs hx rfl rfl
  case place hempty hkey _ => exact indexLaw_place hs hempty hkey
  case remove hr _ => exact indexLaw_afterRemoval hs hr
  case record hr h => exact indexLaw_setRecord hs hr h.key h.generation
  case sent i x _ _ _ _ hx _ => exact indexLaw_setRecord (r' := { x with sent := true }) hs hx rfl rfl
  case load => exact indexLaw_load hs _
  case reset => exact indexLaw_reset
  all_goals exact hs

/-! ## The counts (R1, R49) -/

/-- Whether the record of a slot, if there is one, meets a condition. -/
def slotMeets (p : Record → Bool) (v : Slot) : Bool :=
  match v.record with
  | some r => p r
  | none => false

theorem countRecords_eq (s : State) (p : Record → Bool) :
    s.countRecords p = s.directory.slots.toList.countP (slotMeets p) := rfl

theorem countRecords_setSlot (s : State) (i : SlotNo) (v : Slot) (p : Record → Bool) :
    (s.setSlot i v).countRecords p =
      s.countRecords p - (if slotMeets p (s.slot i) then 1 else 0) + if slotMeets p v then 1 else 0 := by
  simp only [countRecords_eq, directory_setSlot, Vector.toList_set]
  exact List.countP_set (by simp)

theorem countRecords_setSlot_same (s : State) {i : SlotNo} {v : Slot} {p : Record → Bool}
    (h : slotMeets p v = slotMeets p (s.slot i)) : (s.setSlot i v).countRecords p = s.countRecords p := by
  rw [countRecords_setSlot, h]
  split
  · next hmeets =>
    have hpos : 0 < s.countRecords p := by
      rw [countRecords_eq]
      exact List.countP_pos_iff.2 ⟨s.slot i, by simp [State.slot], hmeets⟩
    omega
  · rfl

theorem countRecords_load (s : State) (mask : Byte) {p : Record → Bool} (hp : ∀ r, p (r.load mask) = p r) :
    (s.load mask).countRecords p = s.countRecords p := by
  rw [countRecords_eq, countRecords_eq]
  show ((s.directory.slots.toList.map (Slot.load mask))).countP (slotMeets p) = _
  rw [List.countP_map]
  refine List.countP_congr fun v _ => ?_
  rw [Function.comp_apply, slotMeets, slotMeets, Slot.load]
  cases v.record with
  | none => rfl
  | some r => exact iff_of_eq (congrArg (· = true) (hp r))

/-- The counts that the part keeps: of all records, and of those of one node. -/
def Counted (p : Record → Bool) : Prop := p = (fun _ => true) ∨ ∃ n : NodeNo, p = fun r => r.node == n

theorem counted_of_node {p : Record → Bool} (hp : Counted p) {r r' : Record} (h : r'.node = r.node) : p r' = p r := by
  rcases hp with rfl | ⟨n, rfl⟩
  · rfl
  · simp only [h]

theorem countLaw_congr {s t : State} (hs : s.CountLaw) (hoccupancy : t.directory.occupancy = s.directory.occupancy)
    (hcounts : ∀ p, Counted p → t.countRecords p = s.countRecords p)
    (hnodes : ∀ n, (t.node n).recordCount = (s.node n).recordCount) : t.CountLaw := by
  refine ⟨?_, fun n => ?_⟩
  · rw [hoccupancy, hcounts _ (.inl rfl)]
    exact hs.1
  · rw [hnodes, hcounts _ (.inr ⟨n, rfl⟩)]
    exact hs.2 n

theorem countLaw_setNode {s : State} (hs : s.CountLaw) {n : NodeNo} {e : NodeEntry}
    (h : e.recordCount = (s.node n).recordCount) : (s.setNode n e).CountLaw := by
  refine countLaw_congr hs rfl (fun _ _ => rfl) fun m => ?_
  rw [node_setNode]
  split
  · next hnm => exact hnm ▸ h
  · rfl

theorem countLaw_setRecord {s : State} (hs : s.CountLaw) {i : SlotNo} {r r' : Record}
    (hr : (s.slot i).record = some r) (hnode : r'.node = r.node) : (s.setRecord i r').CountLaw := by
  refine countLaw_congr hs rfl (fun p hp => countRecords_setSlot_same s ?_) fun _ => rfl
  simp only [slotMeets, hr]
  exact counted_of_node hp hnode

/-- R13, R49: a record more in the directory and at its node. -/
theorem countLaw_place {s : State} (hs : s.CountLaw) {i : SlotNo} {a : InsertArguments}
    (hempty : (s.slot i).record = none) : (s.place i a).CountLaw := by
  have hcount (p : Record → Bool) : (s.place i a).countRecords p =
      s.countRecords p + if p (a.record ((s.slot i).generation + 1)) then 1 else 0 := by
    have hold : slotMeets p (s.slot i) = false := by simp only [slotMeets, hempty]
    exact (countRecords_setSlot s i _ p).trans (by rw [hold]; rfl)
  refine ⟨?_, fun n => ?_⟩
  · rw [hcount, ← hs.1]
    rfl
  · rw [hcount, ← hs.2 n]
    show ((s.setNode a.key.node _).node n).recordCount = (s.node n).recordCount + if (a.key.node == n) = true then 1 else 0
    rw [node_setNode]
    by_cases hn : a.key.node = n
    · simp [hn]
    · simp [hn]

/-- R18, R49: a record fewer in the directory and at its node. -/
theorem countLaw_afterRemoval {s : State} (hs : s.CountLaw) {i : SlotNo} {r : Record}
    (hr : (s.slot i).record = some r) : (s.afterRemoval i r).CountLaw := by
  have hcount (p : Record → Bool) : (s.afterRemoval i r).countRecords p =
      s.countRecords p - if p r then 1 else 0 := by
    have hold : slotMeets p (s.slot i) = p r := by simp only [slotMeets, hr]
    exact (countRecords_setSlot s i _ p).trans (by rw [hold]; rfl)
  refine ⟨?_, fun n => ?_⟩
  · rw [hcount, ← hs.1]
    rfl
  · rw [hcount, ← hs.2 n]
    show ((s.setNode r.node _).node n).recordCount = (s.node n).recordCount - if (r.node == n) = true then 1 else 0
    rw [node_setNode]
    by_cases hn : r.node = n
    · simp [hn]
    · simp [hn]

theorem countLaw_reset (s : State) (port : HostPort) : (s.resetWith port).CountLaw := by
  have hcount (p : Record → Bool) : (s.resetWith port).countRecords p = 0 := by
    rw [countRecords_eq]
    refine List.countP_eq_zero.2 fun v hv => ?_
    have hmem : v ∈ List.replicate 384 (⟨0, none⟩ : Slot) := Vector.toList_replicate ▸ hv
    simp [List.eq_of_mem_replicate hmem, slotMeets]
  refine ⟨(hcount _).symm, fun n => ?_⟩
  rw [hcount]
  exact congrArg NodeEntry.recordCount (node_reset n)

theorem change_keeps_countLaw {s t : State} (hs : s.CountLaw) (h : Change s t) : t.CountLaw := by
  cases h
  case node n e h => exact countLaw_setNode hs h.recordCount
  case offer n w _ _ _ _ => exact countLaw_setNode hs rfl
  case release n hcount _ => exact countLaw_setNode (s := s) (e := .reset) hs hcount.symm
  case countNodes =>
    refine countLaw_congr hs rfl (fun _ _ => rfl) fun n => ?_
    obtain ⟨-, -, -, hcount⟩ := cycleStart_keeps (s.node n)
    rw [node_countNodes, hcount]
  case raiseNode n r _ _ => exact countLaw_setNode (s := s) (e := { s.node n with reasons := _ }) hs rfl
  case settleNode n _ _ => exact countLaw_setNode (s := s) (e := { s.node n with reasons := _ }) hs rfl
  case raiseRecord i x _ hx _ => exact countLaw_setRecord (r' := { x with reasons := _ }) hs hx rfl
  case settleRecord i x _ hx _ => exact countLaw_setRecord (r' := { x with reasons := _ }) hs hx rfl
  case place hempty _ _ => exact countLaw_place hs hempty
  case remove hr _ => exact countLaw_afterRemoval hs hr
  case record hr h => exact countLaw_setRecord hs hr (congrArg Key.node h.key)
  case sent i x _ _ _ _ hx _ => exact countLaw_setRecord (r' := { x with sent := true }) hs hx rfl
  case load =>
    refine countLaw_congr hs rfl (fun p hp => countRecords_load s _ fun r => ?_) fun _ => rfl
    exact counted_of_node hp (congrArg Key.node (load_key _ r))
  case reset => exact countLaw_reset s _
  all_goals exact hs

/-- Settles O59: only INSERT and the removal of a record touch the keys and the counts, each by one. -/
theorem directoryLawsAreKept : Obligations.DirectoryLawsAreKept := fun _ _ hs h =>
  kept_by_step (P := fun u => u.IndexLaw ∧ u.CountLaw)
    (fun _ _ ⟨hindex, hcount⟩ hchange => ⟨change_keeps_indexLaw hindex hchange, change_keeps_countLaw hcount hchange⟩)
    (fun _ _ hu => hu) hs h

/-! ## The laws at reset, and the totality of the step -/

theorem deliveryLaw_at_reset : State.reset.DeliveryLaw := deliveryLaw_reset .reset .reset

theorem nodeLaw_reset : State.reset.NodeLaw := fun n => (node_reset n).symm ▸ lawful_reset

theorem identityLaw_reset : State.reset.IdentityLaw := fun n _ hn =>
  absurd (congrArg NodeEntry.state (node_reset n)) hn

theorem attentionLaw_reset : State.reset.AttentionLaw := (attentionLaw_iff _).2 (lists_reset .reset .reset)

/-- Settles O53: each law holds in the values after reset. -/
theorem lawsHoldAtReset : Obligations.LawsHoldAtReset :=
  ⟨cycleLaw_reset, settingsLaw_reset, scheduleLaw_reset, deliveryLaw_at_reset, nodeLaw_reset, identityLaw_reset,
    rangeLaw_reset, trivial, attentionLaw_reset, lineLaw_reset, indexLaw_reset, countLaw_reset .reset .reset⟩

theorem exec_total (c : Instr) (s : State) : ∃ t, exec c s = .next t := by
  cases c <;> exact ⟨_, rfl⟩

/-- Settles O3: no change touches the queue. -/
theorem everyOperationEndsInANextState : Obligations.EveryOperationEndsInANextState := by
  intro c s
  obtain ⟨t, ht⟩ := exec_total c s
  exact ⟨t, ht, reaches_pending (exec_reaches ht)⟩

/-- Settles O2: the two cases of the queue. -/
theorem stepRunsTheFrontOperation : Obligations.StepRunsTheFrontOperation := by
  refine ⟨fun c rest s hqueue => ?_, fun s hqueue => ?_⟩
  · simp only [step, hqueue]
  · simp only [step, hqueue]

end Sys2Proof.Proofs.KeptLaws
end

section
/-! PROOFS. INSERT's placing of the record (R13), FIND and its visits (R20 to R22), OFFER (R51, R52), RETIRE NODE and its cascade (R66 to R69), LOAD (R73, R77) and UNSCHEDULE (R81): each case of the command, and the statements about its row. -/

namespace Sys2Proof.Proofs.Commands

open Sys2Proof.Machine Sys2Proof.Laws
open Sys2Proof.Proofs.DirectoryCommands (withCode)

/-! ## INSERT (R13) -/

theorem insertRecord_places {s : State} (hl : s.IndexLaw) {a : InsertArguments} {i : SlotNo}
    (habsent : s.KeyAbsent a.key) (hempty : (s.slot i).record = none)
    (hlowest : ∀ j : SlotNo, j < i → (s.slot j).record ≠ none) :
    s.insertRecord a =
      ((s.place i a).writeImage (a.record ((s.slot i).generation + 1)).image).finish .done i.val
        ((s.slot i).generation + 1) 0 := by
  simp only [State.insertRecord, (lookupKey_none hl).2 habsent, lowestEmpty_some.2 ⟨hempty, hlowest⟩]

/-- Settles O7: the checks pass, the key is absent, and the record goes to the lowest empty slot. -/
theorem insertPlacesTheRecord : Obligations.InsertPlacesTheRecord := by
  intro s k i hready hindex hgood hk hfree hretiring habsent hempty hlowest generation r
  have hpass := cmdInsert_pass (s := withCode s 0x03) (insertArguments_some hgood hk) hfree hretiring
  refine leads_of_command hready rfl rfl rfl (hpass.trans ?_)
  exact insertRecord_places (s := withCode s 0x03) hindex habsent hempty hlowest

/-! ## FIND (R20 to R22) -/

section Find

variable {s : State}

theorem criteria_valid_iff (w : WindowArguments) :
    w.criteria.valid = true ↔ w.group.toNat ≤ 239
      ∧ (w.permit.getLsbD 0 = true ∨ w.permit.getLsbD 1 = true ∨ w.permit.getLsbD 2 = true) := by
  simp [WindowArguments.criteria, FindCriteria.valid, or_assoc]

theorem cmdFind_badSlot (h : 384 ≤ s.command.argWord.toNat) : s.cmdFind = s.badArgument := by
  simp only [State.cmdFind, slotNo?_eq_none.2 h]

theorem cmdFind_badCriteria (h : ¬ s.command.window.criteria.valid = true) : s.cmdFind = s.badArgument := by
  unfold State.cmdFind
  split
  · rfl
  · exact if_neg h

theorem cmdFind_begins {i : SlotNo} (hi : s.command.argWord.toNat = i.val)
    (h : s.command.window.criteria.valid = true) : s.cmdFind = s.startScan (.finding 0) i := by
  simp only [State.cmdFind, slotNo?_eq_some.2 hi, if_pos h]

end Find

/-- Settles O11: a slot or criteria out of range are refused, otherwise the scan stands at the slot. -/
theorem findBeginsOrRefuses : Obligations.FindBeginsOrRefuses := by
  intro s hready w bad
  have leads {t : State} : (withCode s 0x06).cmdFind = t → Leads s .find t := leads_of_command hready rfl rfl rfl
  refine ⟨fun hbad => leads ?_, fun hgood i hi => leads ?_⟩
  · rcases hbad with hslot | hcriteria
    · exact cmdFind_badSlot (s := withCode s 0x06) hslot
    · refine cmdFind_badCriteria (s := withCode s 0x06) fun hvalid => ?_
      obtain ⟨haddress, hstates⟩ := (criteria_valid_iff _).1 hvalid
      rcases hcriteria with hhigh | ⟨h0, h1, h2⟩
      · exact absurd haddress (Nat.not_le.2 hhigh)
      · have hnone : w.permit.getLsbD 0 = true ∨ w.permit.getLsbD 1 = true ∨ w.permit.getLsbD 2 = true := hstates
        simp only [h0, h1, h2, Bool.false_eq_true, or_self] at hnone
  · obtain ⟨-, hcriteria⟩ := not_or.1 hgood
    obtain ⟨haddress, hstates⟩ := not_or.1 hcriteria
    refine cmdFind_begins (s := withCode s 0x06) hi ((criteria_valid_iff w).2 ⟨Nat.not_lt.1 haddress, ?_⟩)
    by_contra hnone
    simp only [not_or, Bool.not_eq_true] at hnone
    exact hstates hnone

/-- R6, R20: whether the state mask names the state of a record. -/
theorem criteria_names (w : WindowArguments) (r : Record) :
    w.criteria.names r.state =
      if r.halted then w.permit.getLsbD 2 else if r.liveLevel.isSome then w.permit.getLsbD 1 else w.permit.getLsbD 0 := by
  unfold Record.state
  cases r.halted with
  | true => rfl
  | false => cases r.liveLevel.isSome <;> rfl

/-- R20: the conditions that a record meets. -/
theorem criteria_met_iff (w : WindowArguments) (r : Record) :
    w.criteria.met r = true ↔
      (w.group = 0 ∨ w.group.toNat = nodeAddress r.node)
      ∧ (if r.halted then w.permit.getLsbD 2 else if r.liveLevel.isSome then w.permit.getLsbD 1
          else w.permit.getLsbD 0) = true
      ∧ (w.demand.getLsbD 0 = true → r.liveLevel.isSome = true ∧ r.delivered = false)
      ∧ (w.demand.getLsbD 1 = true → r.stagedLevel.isSome = true)
      ∧ (w.demand.getLsbD 2 = true → r.reasons ≠ .none) := by
  rw [← criteria_names, ← eq_addressByte_iff, ← reasons_nonempty]
  simp only [FindCriteria.met, Bool.and_eq_true, Bool.or_eq_true, Bool.not_eq_true', beq_iff_eq, and_assoc,
    ← imp_iff_not_or, ← Bool.not_eq_true]
  rfl

section Visit

variable {s : State} {visited : Nat}

theorem exec_findVisit (hheld : s.resetHeld = false) (h : s.command.state = .finding visited) :
    exec .findVisit s = .next (s.visitFind visited) := by
  change execFindVisit s = _
  simp only [execFindVisit, unlessHeld_eq hheld, h]

theorem visitFind_meets {r : Record} (hr : (s.slot s.command.scan).record = some r)
    (h : s.command.window.criteria.met r = true) :
    s.visitFind visited = (s.writeImage r.image).finish .done s.command.scan.val r.generation (visited + 1) := by
  simp only [State.visitFind, hr, if_pos h]

theorem visitFind_passes (h : ∀ r ∈ (s.slot s.command.scan).record, ¬ s.command.window.criteria.met r = true) :
    s.visitFind visited = s.findPasses visited := by
  unfold State.visitFind
  split
  · rfl
  · next r hr => exact if_neg (h r hr)

end Visit

/-- Settles O12: the record in the slot meets the criteria, or the scan passes the slot, the last one or another. -/
theorem findVisitJudgesTheSlot : Obligations.FindVisitJudgesTheSlot := by
  intro s visited hheld hfinding i w meets
  have hmeets (r : Record) : w.criteria.met r = true ↔ meets r := criteria_met_iff w r
  have hexec := exec_findVisit hheld hfinding
  refine ⟨fun r hr hr' => ?_, fun hnone => ?_⟩
  · rw [hexec, visitFind_meets hr ((hmeets r).2 hr')]
    rfl
  · have hpasses := visitFind_passes (visited := visited) fun r hr => mt (hmeets r).1 (hnone r hr)
    refine ⟨fun hlast => ?_, fun j hj => ?_⟩
    · rw [hexec, hpasses, State.findPasses, if_pos hlast]
      rfl
    · have hnext : s.command.scan.val ≠ 383 := fun hlast => by
        have hlt := j.isLt
        have hj : j.val = s.command.scan.val + 1 := hj
        omega
      rw [hexec, hpasses, State.findPasses, if_neg hnext, nextSlot_eq hj]
      rfl

/-! ## OFFER (R51, R52) -/

section Offer

variable {s : State} {n : NodeNo}

theorem cmdOffer_outOfRange (h : s.offerTarget = none) : s.cmdOffer = s.finish .outOfRange 0 0 0 := by
  simp only [State.cmdOffer, h]

theorem cmdOffer_addressInUse (hn : s.offerTarget = some n) (h : (s.node n).state ≠ .free) :
    s.cmdOffer = (s.writeImage (s.node n).image).finish .addressInUse (nodeAddress n) 0 0 := by
  simp only [State.cmdOffer, hn, if_pos h]

theorem cmdOffer_badIdentity (hn : s.offerTarget = some n) (h : (s.node n).state = .free)
    (hidentity : validIdentity s.command.window.identity = false) : s.cmdOffer = s.finish .badIdentity 0 0 0 := by
  simp only [State.cmdOffer, hn, if_neg (not_not_intro h), hidentity, Bool.not_false, if_true]

theorem cmdOffer_identityInUse (hn : s.offerTarget = some n) (h : (s.node n).state = .free)
    (hidentity : validIdentity s.command.window.identity = true) {m : NodeNo}
    (hm : s.identityHolder s.command.window.identity = some m) :
    s.cmdOffer = (s.writeImage (s.node m).image).finish .identityInUse (nodeAddress m) 0 0 := by
  simp only [State.cmdOffer, hn, if_neg (not_not_intro h), hidentity, Bool.not_true, Bool.false_eq_true, if_false, hm]

theorem cmdOffer_new (hn : s.offerTarget = some n) (h : (s.node n).state = .free)
    (hidentity : validIdentity s.command.window.identity = true)
    (hnew : s.identityHolder s.command.window.identity = none) :
    s.cmdOffer = if s.command.window.first.toNat ≤ 4095 then s.makeOffer n else s.badArgument := by
  simp only [State.cmdOffer, hn, if_neg (not_not_intro h), hidentity, Bool.not_true, Bool.false_eq_true, if_false,
    hnew]

theorem validIdentity_false {v : Identity} (h : v = 0 ∨ v = BitVec.allOnes 64) : validIdentity v = false := by
  rw [← Bool.not_eq_true, validIdentity_iff]
  exact fun ⟨hzero, hones⟩ => h.elim hzero hones

end Offer

/-- Settles O13: the range, the entry, the identity, its holder and the lifetime, in this order. -/
theorem offerChecksInOrder : Obligations.OfferChecksInOrder := by
  intro s hready hlaw a identity inside
  have leads {t : State} : (withCode s 0x12).cmdOffer = t → Leads s .offer t := leads_of_command hready rfl rfl rfl
  refine ⟨fun houtside => leads ?_, fun n ⟨_, _, hlow, hhigh⟩ hn =>
    ⟨fun hused => leads ?_, fun hfree hbad => leads ?_, fun hfree hzero hones => ?_⟩⟩
  · exact cmdOffer_outOfRange (s := withCode s 0x12) (offerTarget_none (s := withCode s 0x12) houtside)
  all_goals have htarget := offerTarget_some (s := withCode s 0x12) hn hlow hhigh
  · exact cmdOffer_addressInUse htarget hused
  · exact cmdOffer_badIdentity htarget hfree (validIdentity_false hbad)
  · have hvalid := (validIdentity_iff identity).2 ⟨hzero, hones⟩
    refine ⟨fun m hm hid => leads ?_, fun hunheld hlong => leads ?_⟩
    · exact cmdOffer_identityInUse htarget hfree hvalid (identityHolder_some (s := withCode s 0x12) hlaw hm hid)
    · rw [cmdOffer_new htarget hfree hvalid (identityHolder_none (s := withCode s 0x12) hunheld)]
      exact if_neg (Nat.not_le.2 hlong)

/-- Settles O14: every check passes, and the entry is OFFERED with the lifetime present unless it is 0. -/
theorem offerReservesTheAddress : Obligations.OfferReservesTheAddress := by
  intro s n hready hn hlow hhigh hfree hzero hones hunheld hlifetime e
  have htarget := offerTarget_some (s := withCode s 0x12) hn (hn ▸ hlow) (hn ▸ hhigh)
  have hvalid := (validIdentity_iff s.command.window.identity).2 ⟨hzero, hones⟩
  have hnew := identityHolder_none (s := withCode s 0x12) hunheld
  have hpresent : (s.command.window.first.toNat = 0) = (s.command.window.first = 0) :=
    propext ⟨fun h => BitVec.eq_of_toNat_eq h, fun h => h ▸ rfl⟩
  have hentry : offeredEntry (s.node n) s.command.window = e := by
    simp only [offeredEntry, hpresent]
    rfl
  have hcmd : (withCode s 0x12).cmdOffer = (withCode s 0x12).makeOffer n :=
    (cmdOffer_new htarget hfree hvalid hnew).trans (if_pos hlifetime)
  refine hentry ▸ leads_of_command hready rfl rfl rfl hcmd

/-! ## RETIRE NODE (R66 to R69) -/

section RetireNode

variable {s : State} {n : NodeNo}

theorem cmdRetireNode_badArgument
    (h : ¬ (1 ≤ (s.command.argByte 0).toNat ∧ (s.command.argByte 0).toNat ≤ 239)) :
    s.cmdRetireNode = s.badArgument := by
  simp only [State.cmdRetireNode, nodeNo?_eq_none.2 h]

theorem cmdRetireNode_noNode (hn : (s.command.argByte 0).toNat = nodeAddress n) (h : (s.node n).state = .free) :
    s.cmdRetireNode = s.finish .noNode (nodeAddress n) 0 0 := by
  simp only [State.cmdRetireNode, nodeNo?_eq_some.2 hn, if_pos h]

theorem cmdRetireNode_released (hn : (s.command.argByte 0).toNat = nodeAddress n) (h : (s.node n).state ≠ .free)
    (hcount : (s.node n).recordCount = 0) :
    s.cmdRetireNode = (s.afterRelease n).finish .done (nodeAddress n) 0 0 := by
  simp only [State.cmdRetireNode, nodeNo?_eq_some.2 hn, if_neg h, if_pos hcount, freeNode_makeRetiring]

theorem cmdRetireNode_cascades (hn : (s.command.argByte 0).toNat = nodeAddress n) (h : (s.node n).state ≠ .free)
    (hcount : (s.node n).recordCount ≠ 0) :
    s.cmdRetireNode = (s.makeRetiring n).startScan (.cascading n 0) 0 := by
  simp only [State.cmdRetireNode, nodeNo?_eq_some.2 hn, if_neg h, if_neg hcount]

end RetireNode

/-- Settles O16: the address, the entry's state and its records decide. -/
theorem retireNodeBegins : Obligations.RetireNodeBegins := by
  intro s hready
  have leads {t : State} : (withCode s 0x13).cmdRetireNode = t → Leads s .retireNode t :=
    leads_of_command hready rfl rfl rfl
  refine ⟨fun hbad => leads ?_, fun n hn => ⟨fun hfree => leads ?_, fun hused hcount => leads ?_,
    fun hused hcount => leads ?_⟩⟩
  · exact cmdRetireNode_badArgument (s := withCode s 0x13) hbad
  · exact cmdRetireNode_noNode (s := withCode s 0x13) hn hfree
  · exact cmdRetireNode_released (s := withCode s 0x13) hn hused hcount
  · exact cmdRetireNode_cascades (s := withCode s 0x13) hn hused hcount

section Cascade

variable {s : State} {n : NodeNo} {removed : Nat}

theorem exec_cascadeVisit (hheld : s.resetHeld = false) (h : s.command.state = .cascading n removed) :
    exec .cascadeVisit s = .next (s.visitCascade n removed) := by
  change execCascadeVisit s = _
  simp only [execCascadeVisit, unlessHeld_eq hheld, h]

theorem visitCascade_passes (h : ∀ r ∈ (s.slot s.command.scan).record, r.node ≠ n) :
    s.visitCascade n removed = s.cascadePasses n removed := by
  unfold State.visitCascade
  split
  · rfl
  · next r hr => exact if_neg (h r hr)

theorem visitCascade_removes {r : Record} (hr : (s.slot s.command.scan).record = some r) (hn : r.node = n) :
    s.visitCascade n removed =
      if ((s.afterRemoval s.command.scan r).node n).recordCount = 0 then
        ((s.afterRemoval s.command.scan r).afterRelease n).finish .done (nodeAddress n) 0 (removed + 1)
      else (s.afterRemoval s.command.scan r).cascadePasses n (removed + 1) := by
  simp only [State.visitCascade, hr, if_pos hn, State.cascadeRemoves, removeRecord_eq hr, freeNode_eq]

/-- R49: the removal leaves the node one record fewer. -/
theorem recordCount_afterRemoval {i : SlotNo} {r : Record} (hn : r.node = n) :
    ((s.afterRemoval i r).node n).recordCount = (s.node n).recordCount - 1 := by
  subst hn
  exact congrArg NodeEntry.recordCount (node_setNode_self s r.node _)

end Cascade

/-- Settles O17: the visit passes a slot without a record of the node, and otherwise removes it, the last one or not. -/
theorem cascadeVisitRemovesTheRecord : Obligations.CascadeVisitRemovesTheRecord := by
  intro s n removed hheld hcascading i
  have hexec := exec_cascadeVisit hheld hcascading
  refine ⟨fun hnone j hj => ?_, fun r hr hn => ⟨fun hlast => ?_, fun hmore j hj => ?_⟩⟩
  · rw [hexec, visitCascade_passes hnone, State.cascadePasses, nextSlot_eq hj]
    rfl
  · have hcount : ((s.afterRemoval s.command.scan r).node n).recordCount = 0 := by
      rw [recordCount_afterRemoval hn, hlast]
    rw [hexec, visitCascade_removes hr hn, if_pos hcount]
    rfl
  · have hcount : ((s.afterRemoval s.command.scan r).node n).recordCount ≠ 0 := by
      rw [recordCount_afterRemoval hn]
      omega
    rw [hexec, visitCascade_removes hr hn, if_neg hcount, State.cascadePasses]
    exact congrArg (fun scan => Host.Outcome.next
      { s.afterRemoval i r with
        command := { s.command with state := .cascading n (removed + 1), scan := scan } }) (nextSlot_eq hj)

/-! ## LOAD and UNSCHEDULE (R73, R77, R81) -/

/-- Settles O18: a mask of 0 is refused, any other is one load on every slot. -/
theorem loadPromotesTheNamedGroups : Obligations.LoadPromotesTheNamedGroups := by
  intro s hready
  have leads {t : State} : (withCode s 0x21).cmdLoad = t → Leads s .load t := leads_of_command hready rfl rfl rfl
  refine ⟨fun hzero => leads ?_, fun hmask => leads ?_⟩
  · rw [State.cmdLoad, if_pos (show (withCode s 0x21).command.argByte 0 = 0 from hzero)]
    rfl
  · rw [State.cmdLoad, if_neg (show ¬ (withCode s 0x21).command.argByte 0 = 0 from hmask), load_eq]
    rfl

section CmdUnschedule

variable {s : State}

theorem cmdUnschedule_removes (hlaw : s.ScheduleLaw) {p : Nat} {e : ScheduleEntry} (he : s.schedule[p]? = some e)
    (htarget : e.target = s.command.argWord) :
    s.cmdUnschedule =
      (s.setSchedule (s.schedule.take p ++ s.schedule.drop (p + 1))).finish .done p 0 (s.schedule.length - 1) := by
  simp only [State.cmdUnschedule, schedulePlace_some hlaw he htarget, List.eraseIdx_eq_take_drop_succ]

theorem cmdUnschedule_notFound (habsent : ∀ e ∈ s.schedule, e.target ≠ s.command.argWord) :
    s.cmdUnschedule = s.finish .notFound 0 0 s.schedule.length := by
  simp only [State.cmdUnschedule, schedulePlace_none.2 habsent]

end CmdUnschedule

/-- Settles O20: the target is held at one position, or at none. -/
theorem unscheduleRemovesTheEntry : Obligations.UnscheduleRemovesTheEntry := by
  intro s hready hlaw
  have leads {t : State} : (withCode s 0x23).cmdUnschedule = t → Leads s .unschedule t :=
    leads_of_command hready rfl rfl rfl
  refine ⟨fun p e he htarget => leads ?_, fun habsent => leads ?_⟩
  · exact cmdUnschedule_removes (s := withCode s 0x23) hlaw he htarget
  · exact cmdUnschedule_notFound (s := withCode s 0x23) habsent

end Sys2Proof.Proofs.Commands
end

section
/-! PROOFS. Answering polls (spec/02): a POLL outside the answer range or while STOPPED (R24), and a POLL that passes the node gate, answered from its record or refused without one (R28 to R39). -/

namespace Sys2Proof.Proofs.AnsweringPolls

open Sys2Proof.Machine Sys2Proof.Laws
open Sys2Proof.Proofs.NodeTable (endWithoutAnswer_listening)

/-- Settles O23: without a target the frame ends without an answer, which in LISTEN changes nothing. -/
theorem pollOutsideIsIgnored : Obligations.PollOutsideIsIgnored := by
  intro s p hlisten hlaw houtside
  change execPoll p s = _
  rw [execPoll, arrive_listening hlisten]
  simp only [State.dispatchPoll, pollTarget_none houtside, endWithoutAnswer_listening hlisten hlaw]

section Gate

variable {s : State} {n : NodeNo} {p : PollFrame}

/-- R28: the gate passed, the POLL is looked up. -/
theorem takePoll_passes (h : (s.node n).PassesGate) :
    s.takePoll n p = (s.afterGate n p.status).lookupPoll n p := by
  rw [← passGate_eq]
  rcases h with h | h | h <;> simp only [State.takePoll, h]

theorem exec_poll_passes (hlisten : s.Listening) (htakes : s.TakesPolls p.address)
    (hn : p.address.toNat = nodeAddress n) (hgate : (s.node n).PassesGate) :
    exec (.poll p) s = .next ((s.afterGate n p.status).lookupPoll n p) := by
  rw [exec_poll_taken hlisten htakes hn, takePoll_passes hgate]

theorem lookupPoll_absent (hl : s.IndexLaw) (h : s.KeyAbsent ⟨n, p.channel⟩) :
    s.lookupPoll n p = s.refusePoll ⟨n, p.channel⟩ .noChannel := by
  simp only [State.lookupPoll, (lookupKey_none hl).2 h]

theorem lookupPoll_found (hl : s.IndexLaw) {i : SlotNo} {r : Record} (hr : (s.slot i).record = some r)
    (hkey : r.key = ⟨n, p.channel⟩) : s.lookupPoll n p = s.answerFrom ⟨n, p.channel⟩ i r p := by
  simp only [State.lookupPoll, (lookupKey_some hl).2 ⟨hr, hkey⟩]

end Gate

/-- Settles O25: past the gate, a key that no record has is refused as a stray. -/
theorem pollWithoutARecordIsRefused : Obligations.PollWithoutARecordIsRefused := by
  intro s p n hlisten hindex htakes hn hgate habsent
  rw [exec_poll_passes hlisten htakes hn hgate, lookupPoll_absent (s := s.afterGate n p.status) hindex habsent,
    refusePoll_eq _ hn]
  rfl

/-- R32 to R38, R120, R122: the record written together with the reasons that the POLL raises for it. -/
theorem raiseRecord_setRecord (s : State) (i : SlotNo) (x : Record) (raised : RecordReasons) :
    (s.setRecord i x).raiseRecord i raised =
      { s with
        directory := { s.directory with
          slots := s.directory.slots.set i.val
            { s.slot i with record := some { x with reasons := x.reasons.union raised } } }
        attention := if x.reasons.isEmpty && !raised.isEmpty then s.attention ++ [.record i] else s.attention
        take := s.take.map (·.noteRecord i raised) } := by
  have hx : ((s.setRecord i x).slot i).record = some x := by rw [slot_setRecord, if_pos rfl]
  cases hempty : raised.isEmpty with
  | true =>
    obtain rfl := recordReasons_empty hempty
    simp only [raiseRecord_empty _ i hempty, union_none_record, noteRecord_none, Bool.not_true, Bool.and_false,
      Bool.false_eq_true, if_false]
    rfl
  | false =>
    rw [raiseRecord_eq hx hempty]
    simp [slot_setRecord]

/-- R36, R39: the answer chosen from a record. -/
theorem answer_eq (r : Record) (k : Key) (i : SlotNo) (p : PollFrame) :
    r.answer k i p =
      if r.halted then .halt k i r.generation (r.reportTaken p)
      else match r.liveLevel with
        | none => .wait k i r.generation (r.reportTaken p)
        | some level => .level k i r.generation r.liveSeq level (r.reportTaken p) := rfl

/-- Settles O26: past the gate, the record is written with its reasons and the answer chosen from it is handed over. -/
theorem pollIsAnsweredFromTheRecord : Obligations.PollIsAnsweredFromTheRecord := by
  intro s p n i r hlisten hindex htakes hn hgate hr hkey g confirmed judged accepted waiting raised r' answer
  have hanswer : r.answer ⟨n, p.channel⟩ i p = answer := by rw [← hkey]; exact answer_eq r r.key i p
  rw [exec_poll_passes hlisten htakes hn hgate, lookupPoll_found (s := g) hindex hr hkey, State.answerFrom,
    raiseRecord_setRecord, hanswer]
  rfl

end Sys2Proof.Proofs.AnsweringPolls
end

section
/-! PROOFS. The cycle unit (spec/05) and what a cycle start does to the node table (spec/03, R62 to R65) and the load unit (spec/04, R82 to R86): beacons, timer and deadline, and the writes of cycle control (R89). -/

namespace Sys2Proof.Proofs.CycleUnit

open Sys2Proof.Machine Sys2Proof.Laws
open Sys2Proof.Proofs.KeptLaws (node_countNodes)

/-! ## A cycle start -/

/-- R91, R92: the cycle start as the node table leaves it, before the schedule fires. -/
def counted (s : State) (new : Word16) : State := (s.setCycle { s.cycle with counter := new }).countNodes

theorem cycleStart_eq (s : State) (new : Word16) :
    s.cycleStart new = (counted s new).fireSchedule s.cycle.counter new := rfl

theorem cycleStart_line (s : State) (new : Word16) : (s.cycleStart new).line = s.line := (cycleStart_line_cycle s new).1

theorem cycleStart_cycle (s : State) (new : Word16) : (s.cycleStart new).cycle = { s.cycle with counter := new } :=
  (cycleStart_line_cycle s new).2

/-- R122: a take of a node notes the reasons of the cycle start, unless the node is gone. -/
theorem noteCycle_eq {s : State} (h : s.NodeLaw) (t : TakeLatch) :
    s.noteCycle t =
      match t with
      | .node n latched since false => .node n latched (since.union (s.node n).raisedAtCycle) false
      | x => x := by
  cases t with
  | node n latched since gone =>
    cases gone with
    | false => simp only [State.noteCycle, Bool.false_eq_true, if_false, cycleReasons_eq (h n)]
    | true => rfl
  | _ => rfl

/-- Settles O30: the schedule that fires leaves the node table as the counting left it, and all the rest. -/
theorem cycleStartCountsTheNodes : Obligations.CycleStartCountsTheNodes := by
  intro s new hlaw t
  obtain ⟨hline, hcycle, hnodes, hattention, htake, hmask, hstray, hcommand, hport, hclearing, hheld, hpending⟩ :=
    fireSchedule_frame (counted s new) s.cycle.counter new
  refine ⟨fun n => ?_, ?_, ?_, hcycle, hline, hmask, hstray, hcommand, hport, hclearing, hheld, hpending⟩
  · have hnode : t.node n = (counted s new).node n := by simp only [State.node, hnodes, t, cycleStart_eq]
    rw [hnode, counted, node_countNodes]
    exact entry_cycleStart_eq (hlaw n)
  · refine hattention.trans ?_
    have hjoins (n : NodeNo) : (s.node n).joinsAtCycle =
        ((s.node n).reasons.isEmpty && !(s.node n).raisedAtCycle.isEmpty) := by
      rw [NodeEntry.joinsAtCycle, cycleReasons_eq (hlaw n)]
    show s.attention ++ ((List.finRange 239).filter fun n => (s.node n).joinsAtCycle).map .node = _
    simp only [hjoins]
  · refine htake.trans (congrArg (fun f => s.take.map f) (funext fun x => ?_))
    refine (noteCycle_eq (s := s) hlaw x).trans ?_
    rcases x with _ | _ | ⟨n, latched, since, gone⟩
    · rfl
    · rfl
    · cases gone <;> rfl

/-! ## The schedule at a cycle start -/

theorem fires_iff (old new : Word16) (e : ScheduleEntry) :
    e.fires old new = true ↔
      e.target = new ∨ (1 ≤ (new - old).toNat ∧ (new - old).toNat ≤ 32767
        ∧ 1 ≤ (e.target - old).toNat ∧ (e.target - old).toNat ≤ (new - old).toNat) := by
  simp [ScheduleEntry.fires, and_assoc]

theorem fireSchedule_none {s : State} {old new : Word16} (h : ∀ e ∈ s.schedule, e.fires old new = false) :
    s.fireSchedule old new = s := by
  have hnone : s.schedule.filter (·.fires old new) = [] :=
    List.filter_eq_nil_iff.2 fun e he => by simp [h e he]
  simp only [State.fireSchedule, hnone, List.isEmpty_nil, if_true]

/-- R84: the one load of the entries that fire. -/
theorem fireSchedule_some {s : State} {old new : Word16} (h : ∃ e ∈ s.schedule, e.fires old new = true) :
    s.fireSchedule old new =
      (let mask := unionMask (s.schedule.filter (·.fires old new))
       { s.load mask with
         schedule := s.schedule.filter (fun e => !e.fires old new)
         lastFired := ⟨new, mask, s.loadCount mask⟩ }.raise .loadFired) := by
  obtain ⟨e, he, hfires⟩ := h
  have hsome : (s.schedule.filter (·.fires old new)).isEmpty = false :=
    List.isEmpty_eq_false_iff.2 (List.ne_nil_of_mem (List.mem_filter.2 ⟨he, hfires⟩))
  simp only [State.fireSchedule, hsome, Bool.false_eq_true, if_false]

/-- R84: a mask is the union of those that fire when its marks are theirs. -/
theorem eq_unionMask {es : List ScheduleEntry} {mask : Byte}
    (h : ∀ b < 8, mask.getLsbD b = true ↔ ∃ e ∈ es, e.mask.getLsbD b = true) : mask = unionMask es :=
  BitVec.eq_of_getLsbD_eq fun b hb => Bool.eq_iff_iff.2 ((h b hb).trans (unionMask_bit es b).symm)

/-- Settles O31: nothing fires, or the entries that fire make one load of their union. -/
theorem cycleStartFiresTheSchedule : Obligations.CycleStartFiresTheSchedule := by
  intro s new t old move fires
  have hfires : fires = fun e => e.fires old new :=
    funext fun e => Bool.eq_iff_iff.2 (decide_eq_true_iff.trans (fires_iff old new e).symm)
  rw [hfires]
  refine ⟨fun hnone => ?_, fun hsome mask hmask => ?_⟩
  · have ht : t = counted s new := fireSchedule_none (s := counted s new) hnone
    rw [ht]
    exact ⟨rfl, rfl, rfl, rfl⟩
  · have hunion : mask = unionMask (s.schedule.filter (·.fires old new)) := by
      refine eq_unionMask fun b hb => (hmask b hb).trans ?_
      simp only [List.mem_filter, and_assoc]
    have ht := fireSchedule_some (s := counted s new) hsome
    dsimp only at ht
    rw [show (counted s new).schedule = s.schedule from rfl, ← hunion] at ht
    rw [show t = _ from ht]
    exact ⟨rfl, rfl, rfl, rfl⟩

/-! ## Beacons, the timer and the deadline -/

/-- R103: a change of the cycle state raises CYCLE. -/
theorem changeCycleState_eq (s : State) (c : CycleState) :
    s.changeCycleState c = { s with cycle := { s.cycle with state := c }, events := { s.events with cycle := true } } :=
  rfl

/-- R98: a cycle start of a follower, with the deadline restarted. -/
theorem restartDeadline_cycleStart (s : State) (new : Word16) :
    (s.cycleStart new).restartDeadline =
      { s.cycleStart new with
        cycle := { s.cycle with counter := new, deadline := some (s.cycle.period.toNat * 1125) } } := by
  rw [State.restartDeadline, cycleStart_cycle]
  rfl

theorem firstMiss_eq (s : State) :
    s.firstMiss =
      { s.cycleStart (s.cycle.counter + 1) with
        cycle := { s.cycle with
          counter := s.cycle.counter + 1, state := .coasting, deadline := some (s.cycle.period.toNat * 1125) }
        events := { (s.cycleStart (s.cycle.counter + 1)).events with cycle := true } } := by
  rw [State.firstMiss, restartDeadline_cycleStart]
  rfl

theorem secondMiss_eq (s : State) :
    s.secondMiss =
      { s with
        cycle := { s.cycle with state := .seeking, deadline := none }
        events := { s.events with cycle := true } } := rfl

section Beacon

variable {s : State}

/-- R108, R110: in LISTEN, where no beacon is pending, a BEACON does what it does at the cycle unit. -/
theorem exec_beacon_listening (hlisten : s.Listening) (hlaw : s.LineLaw) {number : Word16}
    (hline : (s.hearBeacon number).line = s.line) : exec (.beacon number) s = .next (s.hearBeacon number) := by
  obtain ⟨-, hstate⟩ := id hlisten
  obtain ⟨-, hbeacon, -⟩ := lineLaw_listen hstate hlaw
  change execBeacon number s = _
  rw [execBeacon, arrive_listening hlisten, State.dispatchBeacon,
    endWithoutAnswer_listen (by rw [hline]; exact hstate) (by rw [hline]; exact hbeacon)]

/-- R95, R115: in LISTEN, where nothing is to be cancelled, the clash leaves the line as it is. -/
theorem clash_listening (hlisten : s.Listening) (hlaw : s.LineLaw) :
    s.clash =
      { s with
        cycle := { s.cycle with state := .clashed, timer := none }
        events := { s.events with cycle := true } } := by
  obtain ⟨-, hstate⟩ := hlisten
  obtain ⟨-, hbeacon, hheld⟩ := lineLaw_listen hstate hlaw
  rw [State.clash, cancelBeacon_eq]
  exact congrArg (fun l => { s with
    cycle := { s.cycle with state := .clashed, timer := none }
    events := { s.events with cycle := true }, line := l }) (cancelled_resting hstate hbeacon hheld)

theorem hearBeacon_locked (h : s.cycle.state = .locked) {number : Word16} :
    s.hearBeacon number = if number = s.cycle.counter + 1 then s.beaconStart else s.firstMiss := by
  simp only [State.hearBeacon, h]

theorem hearBeacon_coasting (h : s.cycle.state = .coasting) {number : Word16} :
    s.hearBeacon number =
      if number = s.cycle.counter + 1 then s.beaconStart.changeCycleState .locked else s.secondMiss := by
  simp only [State.hearBeacon, h]

end Beacon

/-- Settles O29: the BEACON in each cycle state, with the number that it carries in LOCKED and COASTING. -/
theorem beaconActsByCycleState : Obligations.BeaconActsByCycleState := by
  intro s number hlisten hlaw next deadline started changed
  have hexec {t : State} (ht : s.hearBeacon number = t) (hline : t.line = s.line) :
      exec (.beacon number) s = .next t :=
    (exec_beacon_listening hlisten hlaw (by rw [ht]; exact hline)).trans (congrArg _ ht)
  have hline (new : Word16) : (s.cycleStart new).line = s.line := cycleStart_line s new
  refine ⟨fun h => hexec ?_ rfl, fun h => hexec ?_ rfl, fun h => hexec ?_ (hline number),
    fun h hnumber => hexec ?_ (hline next), fun h hnumber => hexec ?_ (hline next),
    fun h hnumber => hexec ?_ (hline next), fun h hnumber => hexec ?_ rfl⟩
  · rcases h with h | h <;> simp only [State.hearBeacon, h]
  · simp only [State.hearBeacon, h, clash_listening hlisten hlaw]
    rfl
  · simp only [State.hearBeacon, h, State.lock, restartDeadline_cycleStart, changeCycleState_eq]
    rfl
  · exact (hearBeacon_locked h).trans ((if_pos hnumber).trans (restartDeadline_cycleStart s next))
  · exact (hearBeacon_locked h).trans ((if_neg hnumber).trans (firstMiss_eq s))
  · refine (hearBeacon_coasting h).trans ((if_pos hnumber).trans ?_)
    exact congrArg (·.changeCycleState .locked) (restartDeadline_cycleStart s next)
  · exact (hearBeacon_coasting h).trans (if_neg hnumber)

/-- Settles O32: the cycle start, the timer restarted and the request handed to the line. -/
theorem cycleTimerExpiryStartsACycle : Obligations.CycleTimerExpiryStartsACycle := by
  intro s hheld hrunning htimer new
  change execCycleTimerExpiry s = _
  rw [execCycleTimerExpiry, unlessHeld_eq hheld, if_pos ⟨hrunning, htimer⟩, State.timerExpiry, requestBeacon_eq,
    cycleStart_cycle, line_setCycle, cycleStart_line]
  rfl

/-- Settles O33: the first miss in LOCKED, the second in COASTING. -/
theorem beaconDeadlineExpiryIsAMiss : Obligations.BeaconDeadlineExpiryIsAMiss := by
  intro s hheld hdeadline new
  have hexec : exec .beaconDeadlineExpiry s = execBeaconDeadlineExpiry s := rfl
  rw [execBeaconDeadlineExpiry, unlessHeld_eq hheld, if_pos hdeadline] at hexec
  refine ⟨fun h => ?_, fun h => ?_⟩
  · simp only [h] at hexec
    rw [hexec, ← firstMiss_eq]
  · simp only [h] at hexec
    rw [hexec, ← secondMiss_eq]

/-! ## Cycle control (R89) -/

/-- The rows that write the cycle control field lead to what the write does. -/
theorem leads_cycleControl {s : State} {i : Instr} {value : Byte} (hready : s.HostReady .cycleControl false)
    (hi : i = .cycleControlWrite value
      ∨ (i, value) ∈ ([(.runSetSource, 0x01), (.runSetFollower, 0x03), (.runClearSource, 0x00),
          (.runClearFollower, 0x02)] : List (Instr × Byte))) : Leads s i (s.writeCycleControl value) := by
  have hrow : writtenField i = some .cycleControl ∧ exec i s = .next (s.writeField .cycleControl [value]) := by
    rcases hi with rfl | hi
    · exact ⟨rfl, rfl⟩
    · simp only [List.mem_cons, Prod.mk.injEq, List.not_mem_nil, or_false] at hi
      rcases hi with ⟨rfl, rfl⟩ | ⟨rfl, rfl⟩ | ⟨rfl, rfl⟩ | ⟨rfl, rfl⟩ <;> exact ⟨rfl, rfl⟩
  exact leads_of_write (f := .cycleControl) (bytes := [value]) (by unfold Genuine; decide) hready rfl rfl rfl
    (by decide) hrow.1 hrow.2

section Control

variable {s : State} {value : Byte}

theorem writeCycleControl_stopped (hrun : s.cycle.run = false) :
    s.writeCycleControl value =
      if value.getLsbD 0 then s.startCycle (modeOf value) else s.setCycle { s.cycle with mode := modeOf value } := by
  rw [State.writeCycleControl, if_neg (by simp [hrun])]

theorem writeCycleControl_same (hrun : s.cycle.run = true) (hmode : modeOf value = s.cycle.mode) :
    s.writeCycleControl value = if value.getLsbD 0 then s else s.stopCycle := by
  rw [State.writeCycleControl, if_pos hrun, if_pos hmode]

theorem writeCycleControl_refused (hrun : s.cycle.run = true) (hmode : modeOf value ≠ s.cycle.mode) :
    s.writeCycleControl value = s.flag .settingRefused := by
  rw [State.writeCycleControl, if_pos hrun, if_neg hmode]

end Control

/-- Settles O34: RUN and the mode, as they stand and as they are written, decide. -/
theorem cycleControlWriteFollowsTheTable : Obligations.CycleControlWriteFollowsTheTable := by
  intro s i value hready hi mode raised
  have leads {t : State} (ht : s.writeCycleControl value = t) : Leads s i t := ht ▸ leads_cycleControl hready hi
  have hmodeOf : modeOf value = mode := rfl
  refine ⟨fun hrun hset => leads ?_, fun hrun hset hmode => leads ?_, fun hrun hset hmode => leads ?_,
    fun hrun hmode hset => leads ?_, fun hrun hmode hset => leads ?_, fun hrun hmode => leads ?_⟩
  · rw [writeCycleControl_stopped hrun, if_neg (by simp only [hset, Bool.false_eq_true, not_false_iff])]
    rfl
  · rw [writeCycleControl_stopped hrun, if_pos hset, hmodeOf, hmode]
    rfl
  · rw [writeCycleControl_stopped hrun, if_pos hset, hmodeOf, hmode]
    rfl
  · rw [writeCycleControl_same hrun hmode, if_pos hset]
  · rw [writeCycleControl_same hrun hmode, if_neg (by simp only [hset, Bool.false_eq_true, not_false_iff]),
      State.stopCycle, cancelBeacon_eq]
    rfl
  · rw [writeCycleControl_refused hrun hmode]
    rfl

end Sys2Proof.Proofs.CycleUnit
end

section
/-! PROOFS. The writes of the settings (R90, R104, R116, R117), of the event block with IRQN (R128 to R130), and of the shared interface block (R147, R149, R150, R152, R154). -/

namespace Sys2Proof.Proofs.SettingWrites

open Sys2Proof.Machine Sys2Proof.Laws

/-! ## Words and marks -/

theorem wordOf_bytes16 (w : Word16) : wordOf (bytes16 w) = w := by
  refine BitVec.eq_of_getLsbD_eq fun i hi => ?_
  change (w.extractLsb' 8 8 ++ w.extractLsb' 0 8).getLsbD i = w.getLsbD i
  rw [BitVec.getLsbD_append]
  by_cases hlow : i < 8
  · simp [hlow]
  · have : 8 + (i - 8) = i := by omega
    simp [hlow, this, show i - 8 < 8 by omega]

theorem marks_cons (b : Bool) (bits : List Bool) :
    marks (b :: bits) = (marks bits <<< 1) ||| (if b then 1 else 0) := rfl

theorem getLsbD_marks (bits : List Bool) (i : Nat) :
    (marks bits).getLsbD i = (decide (i < 8) && bits.getD i false) := by
  induction bits generalizing i with
  | nil => simp [marks]
  | cons b bits ih =>
    rw [marks_cons, BitVec.getLsbD_or, BitVec.getLsbD_shiftLeft, ih]
    cases i with
    | zero => cases b <;> rfl
    | succ i =>
      have hbit : (if b then (1 : Byte) else 0).getLsbD (i + 1) = false := by
        cases b <;> simp [BitVec.getLsbD_one]
      rw [hbit, List.getD_cons_succ]
      by_cases hi : i + 1 < 8 <;> simp [hi]
      omega

/-- Some mark of the low nine is set in both words. -/
theorem and_mask_ne_zero {v : Word16} {mask : BitVec 9} :
    ((v &&& mask.setWidth 16) != 0) = true ↔ ∃ i < 9, v.getLsbD i = true ∧ mask.getLsbD i = true := by
  rw [bne_iff_ne]
  constructor
  · intro h
    by_contra hnone
    refine h (BitVec.eq_of_getLsbD_eq fun i hi => ?_)
    rw [BitVec.getLsbD_and, BitVec.getLsbD_setWidth]
    change _ = (0#16).getLsbD i
    rw [BitVec.getLsbD_zero]
    by_contra hset
    simp only [Bool.not_eq_false, Bool.and_eq_true, decide_eq_true_eq] at hset
    exact hnone ⟨i, BitVec.lt_of_getLsbD hset.2.2, hset.1, hset.2.2⟩
  · rintro ⟨i, hi, hv, hm⟩ h
    have hbit : (v &&& mask.setWidth 16).getLsbD i = (0#16).getLsbD i := congrArg (BitVec.getLsbD · i) h
    rw [BitVec.getLsbD_and, BitVec.getLsbD_setWidth, hv, hm, BitVec.getLsbD_zero, decide_eq_true (by omega)] at hbit
    exact absurd hbit (by decide)

/-! ## The event block (R128 to R130) -/

theorem getLsbD_eventBits (s : State) {i : Nat} (hi : i < 9) : s.eventBits.getLsbD i = s.eventMarks.getD i false := by
  rw [State.eventBits, BitVec.getLsbD_append, getLsbD_marks, getLsbD_marks]
  by_cases hlow : i < 8
  · interval_cases i <;> rfl
  · obtain rfl : i = 8 := by omega
    rfl

theorem errors_any_iff (e : ErrorFlags) : e.any = true ↔ e ≠ .reset := by
  rw [← Bool.not_eq_false, not_iff_not]
  cases e
  simp only [ErrorFlags.any, ErrorFlags.reset, Bool.or_eq_false_iff, ErrorFlags.mk.injEq, and_assoc]

/-- R129, R130: IRQN, event by event. -/
theorem irqAsserted_iff (s : State) :
    s.irqAsserted = true ↔
      s.resetHeld = false ∧ s.clearing = false
        ∧ ∃ i < 9, s.eventMarks.getD i false = true ∧ s.mask.getLsbD i = true := by
  rw [State.irqAsserted, Bool.and_eq_true, Bool.and_eq_true, and_mask_ne_zero, Bool.not_eq_true', Bool.not_eq_true',
    and_assoc]
  refine and_congr_right' (and_congr_right' (exists_congr fun i => and_congr_right fun hi => ?_))
  rw [getLsbD_eventBits s hi]

theorem attentionEvent_iff {s : State} (h : s.resetHeld = false) : s.attentionEvent = true ↔ s.attention ≠ [] := by
  simp [State.attentionEvent, h]

/-- Settles O43: the event register and mask as they are written, and IRQN by the nine marks. -/
theorem eventWritesAndIrqn : Obligations.EventWritesAndIrqn := by
  refine ⟨fun s value hready => ?_, fun s value hready => ?_, fun s => ?_⟩
  · have h := leads_of_write (i := .eventRegisterWrite value) (bytes := bytes16 value)
      (by unfold Genuine; decide) hready rfl rfl rfl
      (by decide) rfl rfl
    rw [State.applyField, wordOf_bytes16] at h
    exact h
  · have h := leads_of_write (i := .eventMaskWrite value) (bytes := bytes16 value)
      (by unfold Genuine; decide) hready rfl rfl rfl
      (by decide) rfl rfl
    rw [State.applyField, wordOf_bytes16] at h
    exact h
  · rw [irqAsserted_iff]
    refine and_congr_right fun hheld => and_congr_right' ?_
    have hattention := attentionEvent_iff hheld
    have herrors := errors_any_iff s.port.errors
    simp only [Nat.exists_lt_succ_left, State.eventMarks, State.interfaceEvent]
    simp [hattention, herrors]

/-! ## Settings (R90, R104, R116, R117) -/

theorem leads_of_judged {s : State} {i : Instr} {c : Prop} [Decidable c] {accepted refused : State}
    (hleads : Leads s i (if c then accepted else refused)) :
    (c → Leads s i accepted) ∧ (¬ c → Leads s i refused) :=
  ⟨fun h => by rwa [if_pos h] at hleads, fun h => by rwa [if_neg h] at hleads⟩

theorem leads_cyclePeriodWrite {s : State} {value : Byte} (hready : s.HostReady .cyclePeriod false) :
    Leads s (.cyclePeriodWrite value) (s.writeCyclePeriod value) :=
  leads_of_write (f := .cyclePeriod) (bytes := [value]) (by unfold Genuine; decide) hready rfl rfl rfl
      (by decide) rfl rfl

theorem leads_lineRateWrite {s : State} {value : Byte} (hready : s.HostReady .lineRate false) :
    Leads s (.lineRateWrite value) (s.writeLineRate value) :=
  leads_of_write (f := .lineRate) (bytes := [value]) (by unfold Genuine; decide) hready rfl rfl rfl
      (by decide) rfl rfl

theorem leads_answerGapWrite {s : State} {value : Byte} (hready : s.HostReady .answerGap false) :
    Leads s (.answerGapWrite value) (s.writeAnswerGap value) :=
  leads_of_write (f := .answerGap) (bytes := [value]) (by unfold Genuine; decide) hready rfl rfl rfl
      (by decide) rfl rfl

/-- Settles O35: each setting is accepted in its range, and the line rate only while RUN is clear. -/
theorem settingWritesAreJudged : Obligations.SettingWritesAreJudged := by
  intro s value refused
  refine ⟨fun hready => ?_, fun hready => ?_, fun hready => ?_⟩
  · obtain ⟨haccepted, hrefused⟩ := leads_of_judged (leads_cyclePeriodWrite (value := value) hready)
    exact ⟨fun hlow hhigh => haccepted ⟨hlow, hhigh⟩, fun h => hrefused (by omega)⟩
  · obtain ⟨haccepted, hrefused⟩ := leads_of_judged (leads_lineRateWrite (value := value) hready)
    refine ⟨fun hhigh hrun => haccepted ⟨hhigh, hrun⟩, fun h => hrefused ?_⟩
    rintro ⟨hhigh, hrun⟩
    simp only [hrun, Bool.false_eq_true, or_false] at h
    omega
  · obtain ⟨haccepted, hrefused⟩ := leads_of_judged (leads_answerGapWrite (value := value) hready)
    exact ⟨fun hlow hhigh => haccepted ⟨hlow, hhigh⟩, fun h => hrefused (by omega)⟩

/-- Settles O36: the answer range, accepted while RUN is clear and no entry lies outside. -/
theorem answerRangeWriteIsJudged : Obligations.AnswerRangeWriteIsJudged := by
  intro s low high hready ok
  have hleads := leads_of_write (i := .answerRangeWrite low high) (bytes := [low, high]) (by unfold Genuine; decide)
    hready rfl rfl rfl
      (by decide) rfl rfl
  change Leads s _ (s.writeAnswerRange low high) at hleads
  simp only [State.writeAnswerRange, entriesWithin_iff] at hleads
  exact leads_of_judged hleads

/-! ## The shared interface block (R147, R149, R150, R152, R154) -/

theorem softReset_of_admits {s : State} {f : Field} {isRead : Bool} (h : s.FieldNext f isRead) :
    s.port.softReset = false := by
  have hadmits := h.1
  rw [State.admits, State.admitsAt] at hadmits
  simp only [Bool.and_eq_true, Bool.not_eq_true'] at hadmits
  exact hadmits.1.2

theorem writeCrcEnablePair_eq (s : State) (value : Byte) :
    s.writeCrcEnablePair value =
      if value.getLsbD 0 = value.getLsbD 1 then s else s.setPort { s.port with crcOn := value.getLsbD 0 } := rfl

theorem orient_singleton (d : Direction) (value : Byte) : orient d [value] = [value] := by cases d <;> rfl

/-- R150: what a write of the CRC enable pair does, at the pair and behind a stream that reaches it. -/
theorem leads_crcEnablePairWrite {s : State} {value : Byte} (hready : s.HostReady .crcEnablePair false) :
    Leads s (.crcEnablePairWrite value)
      (if s.startsAtPair = true then s.writeCrcEnablePair value else s.flag .readOnlyWrite) := by
  have hleads := leads_of_row (i := .crcEnablePairWrite value) (bytes := [value]) (by unfold Genuine; decide) hready
    rfl rfl rfl
  have heffect : rowEffect s .crcEnablePair [value] =
      if s.startsAtPair = true then s.writeCrcEnablePair value else s.flag .readOnlyWrite := by
    rw [rowEffect, hready.2, if_neg Bool.false_ne_true, orient_singleton]
    by_cases hpair : s.startsAtPair = true
    · rw [if_pos ⟨rfl, hpair⟩, if_pos hpair]
      rfl
    · rw [if_neg fun h => hpair h.2, if_neg hpair, rowFlags, hready.2]
      change ((s.flagIf false .unknownAddress).flagIf (false || (true && !s.startsAtPair)) .readOnlyWrite).flag
        .readOnlyWrite = _
      rw [flag_flagIf]
      rfl
  rwa [heffect] at hleads

theorem configOf_withMarks (value : Byte) : configOf (value ||| 0xC0) = configOf value := by
  have h0 : (value ||| 0xC0).getLsbD 0 = value.getLsbD 0 := by simp
  have h1 : (value ||| 0xC0).getLsbD 1 = value.getLsbD 1 := by simp
  have h2 : (value ||| 0xC0).getLsbD 2 = value.getLsbD 2 := by simp
  have h3 : (value ||| 0xC0).getLsbD 3 = value.getLsbD 3 := by simp
  rw [configOf, configOf, h0, h1, h2, h3]

theorem bothResetMarks_withMarks (value : Byte) :
    ((value ||| 0xC0).getLsbD 6 && (value ||| 0xC0).getLsbD 7) = true := by simp

theorem leads_interfaceControl {s : State} {i : Instr} {value : Byte} (hready : s.HostReady .interfaceControl false)
    (hfield : writtenField i = some .interfaceControl)
    (hexec : exec i s = .next (s.writeField .interfaceControl [value])) :
    Leads s i (s.writeInterfaceControl value) :=
  leads_of_write (f := .interfaceControl) (bytes := [value]) (by unfold Genuine; decide) hready rfl rfl rfl (by decide)
    hfield hexec

theorem leads_softResetRequest {s : State} {value : Byte} (hready : s.HostReady .interfaceControl false) :
    Leads s (.softResetRequest value)
      { s with port := { s.port with config := configOf value, softReset := true } } := by
  have hleads := leads_interfaceControl (i := .softResetRequest value) hready rfl rfl
  rwa [State.writeInterfaceControl, configOf_withMarks, bothResetMarks_withMarks, Bool.or_true] at hleads

theorem leads_interfaceControlWrite {s : State} {value : Byte} (hready : s.HostReady .interfaceControl false)
    (hmarks : ¬ (value.getLsbD 6 = true ∧ value.getLsbD 7 = true)) :
    Leads s (.interfaceControlWrite value) { s with port := { s.port with config := configOf value } } := by
  have hleads := leads_interfaceControl (i := .interfaceControlWrite value) hready rfl rfl
  rw [← Bool.and_eq_true, Bool.not_eq_true] at hmarks
  rwa [State.writeInterfaceControl, hmarks, Bool.or_false] at hleads

/-- R154: behind a soft reset request the rest of the frame is disregarded. -/
theorem portBehind_softReset {u : State} (h : u.port.softReset = true) (a : Access) (own : Bool) :
    u.portBehind a own = { u.port with phase := .disregard (some a) } := by
  rw [State.portBehind]
  exact if_pos h

theorem portAfter_softReset {s t : State} {f : Field} {applied : Bool} (h : t.port.softReset = true) :
    ∃ a, (s.portAfter f applied t).softReset = true ∧ (s.portAfter f applied t).phase = .disregard (some a) := by
  refine ⟨_, ?_, congrArg HostPort.phase (portBehind_softReset (by exact h) _ _)⟩
  exact (congrArg HostPort.softReset (portBehind_softReset (by exact h) _ _)).trans h

/-- R147: an access that has written the loop length leaves it standing. -/
theorem portBehind_loopWritten {u : State} (h : u.port.softReset = false) {a : Access} (ha : a.loopWritten = true)
    (own : Bool) :
    (u.portBehind a own).loopLength = u.port.loopLength
    ∧ ((u.portBehind a own).phase = .idle
      ∨ (∃ b, ((u.portBehind a own).phase = .data b ∨ (u.portBehind a own).phase = .disregard (some b))
        ∧ b.loopWritten = true)
      ∨ (u.portBehind a own).phase = .between) := by
  rw [State.portBehind, if_neg (by simp [h])]
  cases own with
  | true => simp [ha]
  | false =>
    cases hmode : a.mode with
    | singleField => simp [ha]
    | streaming =>
      refine ⟨by simp, .inr (.inl ⟨a, ?_, ha⟩)⟩
      cases hpair : a.atPair
      · exact .inl (by simp)
      · exact .inr (by simp)

theorem exec_of_leads {s t : State} {i : Instr} {f : Field} (hf : writtenField i = some f) (h : Leads s i t) :
    exec i s = .next { t with port := s.portAfter f true t } := by
  obtain ⟨g, hg, hexec⟩ := h
  rw [hf, Option.some.injEq] at hg
  rwa [hg]

/-- Settles O44: the writes of the error flags, the loop length, the CRC enable pair and interface control. -/
theorem interfaceBlockWrites : Obligations.InterfaceBlockWrites := by
  intro s value word config e
  refine ⟨fun hready => ?_, fun hready => ?_, fun hready hpair => ?_, fun hready hpair => ?_, fun hready => ?_⟩
  · have hleads := leads_of_write (i := .interfaceErrorFlagsWrite word) (bytes := bytes16 word)
      (by unfold Genuine; decide) hready rfl rfl rfl
      (by decide) rfl rfl
    rw [State.applyField, wordOf_bytes16] at hleads
    exact hleads
  · have hleads : Leads s (.loopLengthWrite value) { s with port := { s.port with loopLength := value } } :=
      leads_of_write (f := .loopLength) (bytes := [value]) (by unfold Genuine; decide) hready rfl rfl rfl
      (by decide) rfl rfl
    refine ⟨hleads, _, exec_of_leads rfl hleads, ?_⟩
    change (State.portBehind _ _ _).loopLength = _ ∧ _
    refine portBehind_loopWritten ?_ ?_ _
    · exact softReset_of_admits (s := s) hready.1
    · exact Bool.or_true _
  · have hleads := leads_crcEnablePairWrite (value := value) hready
    rw [if_pos hpair] at hleads
    obtain ⟨hsame, hdiffers⟩ := leads_of_judged hleads
    exact ⟨hdiffers, hsame⟩
  · have hleads := leads_crcEnablePairWrite (value := value) hready
    rwa [if_neg (by simp [hpair])] at hleads
  · have hleads := leads_softResetRequest (value := value) hready
    obtain ⟨a, hrequested, hphase⟩ := portAfter_softReset (s := s) (f := .interfaceControl) (applied := true)
      (t := { s with port := { s.port with config := configOf value, softReset := true } }) rfl
    exact ⟨leads_interfaceControlWrite hready, hleads, _, a, exec_of_leads rfl hleads, hrequested, hphase⟩

end Sys2Proof.Proofs.SettingWrites
end

section
/-! PROOFS. The line controller (spec/06): damage, collisions and ignored kinds (R108, R110, R111, R113, R118), the frame that goes on the line at the end of a gap (R112, R114, R158), and the end of a beacon (R94, R114). -/

namespace Sys2Proof.Proofs.LineEvents

open Sys2Proof.Machine Sys2Proof.Laws

/-! ## Damage -/

/-- R111: the line controller after a damage: the count, and the count against a read in progress, one higher. -/
def damagedOnce (l : LineController) : LineController :=
  { l with
    damaged := min (l.damaged + 1) 65535
    damagedLatch := l.damagedLatch.map (fun d => { d with since := min (d.since + 1) 65535 }) }

theorem countDamage_eq (s : State) :
    s.countDamage = { s with line := damagedOnce s.line, events := { s.events with damage := true } } := rfl

/-- R108, R111: a frame that ends damaged: the damage counted, and back to LISTEN. -/
theorem endDamaged_eq (s : State) :
    s.endDamaged = { s with line := (damagedOnce s.line).resting, events := { s.events with damage := true } } :=
  endWithoutAnswer_eq s.countDamage

theorem resting_listen {l : LineController} (hstate : l.state = .listen) (hbeacon : l.beacon = none) :
    l.resting = l := by
  rw [LineController.resting, hbeacon, if_neg (by simp), ← hstate, ← hbeacon]

theorem frameDamaged_cutShort (s : State) : s.frameDamaged .cutShort = s.countDamage.beginFrame := by
  rw [State.frameDamaged, if_pos rfl]

theorem frameDamaged_other {cause : DamageCause} (h : cause ≠ .cutShort) (s : State) :
    s.frameDamaged cause = s.endDamaged := by
  rw [State.frameDamaged, if_neg h]

/-! ## The rows of the line -/

section Rows

variable {s : State}

/-- R118: while the part does not receive, nothing on the line has an effect. -/
theorem exec_deaf (hdeaf : s.receives = false) {i : Instr}
    (hi : (∃ p, i = .poll p) ∨ (∃ body, i = .announce body) ∨ (∃ number, i = .beacon number)
      ∨ (∃ kind, i = .ignoredAnswerKind kind) ∨ (∃ cause, i = .damagedFrame cause)
      ∨ (∃ bytes, i = .startMarker bytes) ∨ i = .lineSilence ∨ i = .collision) : exec i s = .next s := by
  obtain ⟨p, rfl⟩ | ⟨body, rfl⟩ | ⟨number, rfl⟩ | ⟨kind, rfl⟩ | ⟨cause, rfl⟩ | ⟨bytes, rfl⟩ | rfl | rfl := hi
  · exact congrArg _ (arrive_deaf hdeaf _ _)
  · exact congrArg _ (arrive_deaf hdeaf _ _)
  · exact congrArg _ (arrive_deaf hdeaf _ _)
  · exact congrArg _ (arrive_deaf hdeaf _ _)
  · exact congrArg _ (arrive_deaf hdeaf _ _)
  · exact congrArg _ (lineBytes_deaf hdeaf _)
  · exact congrArg _ (if_neg (by simp [hdeaf]))
  · exact congrArg _ (if_neg (by simp [hdeaf]))

theorem exec_ignoredAnswerKind (hlisten : s.Listening) (kind : AnswerKind) :
    exec (.ignoredAnswerKind kind) s = .next s.endWithoutAnswer :=
  congrArg _ (arrive_listening hlisten _ _)

theorem exec_damagedFrame (hlisten : s.Listening) (cause : DamageCause) :
    exec (.damagedFrame cause) s = .next (s.frameDamaged cause) :=
  congrArg _ (arrive_listening hlisten _ _)

theorem exec_lineSilence {r : Reception} (hreceives : s.receives = true) (hstate : s.line.state = .receiving r) :
    exec .lineSilence s = .next s.endDamaged := by
  change execLineSilence s = _
  rw [execLineSilence, if_pos hreceives, hstate]

theorem exec_collision (hreceives : s.receives = true) : exec .collision s = .next s.collide :=
  congrArg _ (if_pos hreceives)

end Rows

theorem receives_eq_false {s : State} (h : s.clearing = true ∨ s.resetHeld = true) : s.receives = false := by
  rw [State.receives]
  obtain h | h := h <;> simp [h]

/-- Settles O37: what is ignored, what is counted, and where the controller goes. -/
theorem damageIsCountedAndIgnoredKindsAreNot : Obligations.DamageIsCountedAndIgnoredKindsAreNot := by
  refine ⟨fun s hdeaf => ?_, fun s hlaw hreceives => ?_⟩
  · have hnothing := receives_eq_false hdeaf
    exact ⟨fun _ => exec_deaf hnothing (by simp), fun _ => exec_deaf hnothing (by simp),
      fun _ => exec_deaf hnothing (by simp), fun _ => exec_deaf hnothing (by simp),
      fun _ => exec_deaf hnothing (by simp), fun _ => exec_deaf hnothing (by simp), exec_deaf hnothing (by simp),
      exec_deaf hnothing (by simp)⟩
  · refine ⟨fun hstate kind => ?_, fun hstate cause hcause => ?_, fun hstate => ?_, fun frame hstate => ?_,
      fun claim length rate hstate => ?_, fun claim wire rate echoed hstate => ?_⟩
    · rw [exec_ignoredAnswerKind ⟨hreceives, hstate⟩, endWithoutAnswer_listen hstate (lineLaw_listen hstate hlaw).2.1]
    · obtain ⟨-, hbeacon, -⟩ := lineLaw_listen hstate hlaw
      rw [exec_damagedFrame ⟨hreceives, hstate⟩, frameDamaged_other hcause, endDamaged_eq,
        resting_listen (l := damagedOnce s.line) hstate hbeacon]
      rfl
    · rw [exec_damagedFrame ⟨hreceives, hstate⟩, frameDamaged_cutShort]
      rfl
    · rw [exec_lineSilence hreceives hstate, endDamaged_eq]
      rfl
    · rw [exec_collision hreceives, State.collide, hstate]
      rfl
    · rw [exec_collision hreceives, State.collide, hstate]
      rfl

/-! ## Sending (R112, R114, R158) -/

/-- R158: LDE is asserted exactly while SENDING. -/
theorem driverEnabled_iff (s : State) :
    s.driverEnabled = true ↔ ∃ claim wire rate echoed, s.line.state = .sending claim wire rate echoed := by
  rw [State.driverEnabled]
  cases s.line.state <;> simp

/-- R112, R114: at the end of a gap the frame of the claim goes on the line. -/
theorem exec_answerGapExpiry {s : State} {claim : Claim} {length : Nat} {rate : BitVec 2} {wire : List Byte}
    (hheld : s.resetHeld = false) (hstate : s.line.state = .gap claim length rate)
    (hframe : s.claimedFrame claim = some wire) :
    exec .answerGapExpiry s = .next { s with line := { s.line with state := .sending claim wire rate false } } := by
  change execAnswerGapExpiry s = _
  rw [execAnswerGapExpiry, unlessHeld_eq hheld, hstate]
  simp only [hframe]
  rfl

theorem claimedFrame_answer {s : State} {a : InFlight} (h : s.line.answer = some a) :
    s.claimedFrame .answer = some (wireFrame (withCrc a.answer.body)) := by
  rw [State.claimedFrame, h]
  rfl

theorem claimedFrame_beacon {s : State} {number : Word16} (h : s.line.beacon = some number) :
    s.claimedFrame .beacon = some (wireFrame (withCrc (beaconBody number))) := by
  rw [State.claimedFrame, h]
  rfl

/-- spec/10: the control byte, mark by mark. -/
theorem answerControl_eq (channel : BitVec 4) (seq t : Bool) :
    answerControl channel seq t =
      channel.setWidth 8 ||| (if seq then 0x10 else 0) ||| (if t then 0x20 else 0) := by
  revert channel seq t
  decide

theorem answerControl_noSeq (channel : BitVec 4) (t : Bool) :
    answerControl channel false t = channel.setWidth 8 ||| (if t then 0x20 else 0) := by
  revert channel t
  decide

/-- Settles O39: the frame of the claim, for a beacon and for each kind of answer. -/
theorem answerGapExpirySendsTheFrame : Obligations.AnswerGapExpirySendsTheFrame := by
  refine ⟨driverEnabled_iff, ?_⟩
  intro s length rate hheld taken seqBit sends
  refine ⟨fun hstate number hbeacon => ?_, fun hstate k i g voided => ?_⟩
  · exact exec_answerGapExpiry hheld hstate (claimedFrame_beacon hbeacon)
  · have hsends {a : Answer} {content : List Byte} (ha : s.line.answer = some ⟨a, voided⟩) (hbody : a.body = content) :
        sends .answer content := hbody ▸ exec_answerGapExpiry hheld hstate (claimedFrame_answer ha)
    refine ⟨fun seq value t ha => hsends ha ?_, fun t ha => hsends ha ?_, fun t ha => hsends ha ?_,
      fun reason ha => hsends ha ?_, fun identity ha => hsends ha rfl⟩
    · rw [Answer.body, answerControl_eq]
      rfl
    · rw [Answer.body, answerControl_noSeq]
    · rw [Answer.body, answerControl_noSeq]
    · cases reason <;> rfl

/-- Settles O42: the held request becomes pending and is taken at once. -/
theorem beaconCompletionTakesTheHeldRequest : Obligations.BeaconCompletionTakesTheHeldRequest := by
  intro s wire rate echoed hheld hstate
  change execBeaconSendCompletion s = _
  rw [execBeaconSendCompletion, unlessHeld_eq hheld, hstate]
  exact congrArg _ (takeBeacon_listen
    (s := { s with line := { s.line with state := .listen, beacon := s.line.held, held := none } }) rfl)

end Sys2Proof.Proofs.LineEvents
end

section
/-! PROOFS. Frames on the line (spec/06, R105 to R109): what the receiver makes of the bytes of a frame, and how a frame built in the layout of its kind is judged. -/

namespace Sys2Proof.Proofs.FramesReadBack

open Sys2Proof.Machine Sys2Proof.Laws
open Sys2Proof.Proofs.SettingWrites (wordOf_bytes16)
open Sys2Proof.Proofs.LineEvents (exec_ignoredAnswerKind)
open Sys2Proof.Proofs.NodeTable (exec_announce_listening)
open Sys2Proof.Proofs.Changes (toListen_of_listen)

/-! ## The receiver, state by state (R108) -/

section Receiver

variable {s : State}

theorem lineByte_listen (hreceives : s.receives = true) (hstate : s.line.state = .listen) (b : LineByte) :
    s.lineByte b = if LineByte.isMarker b startMarkerByte then s.beginFrame else s := by
  rw [State.lineByte, if_pos hreceives, hstate]

theorem lineByte_receiving (hreceives : s.receives = true) {r : Reception} (hstate : s.line.state = .receiving r)
    (b : LineByte) :
    s.lineByte b =
      if LineByte.isMarker b endMarkerByte then s.endFrame r
      else if LineByte.isMarker b startMarkerByte then s.frameDamaged .cutShort
      else s.setLine { s.line with state := .receiving (r.byte b) } := by
  rw [State.lineByte, if_pos hreceives, hstate]

/-- R108: a byte of the frame that is no marker. -/
theorem lineByte_inside (hreceives : s.receives = true) {r : Reception} (hstate : s.line.state = .receiving r)
    {b : LineByte} (hstart : b ≠ ⟨startMarkerByte, false⟩) (hend : b ≠ ⟨endMarkerByte, false⟩) :
    s.lineByte b = s.setLine { s.line with state := .receiving (r.byte b) } := by
  rw [lineByte_receiving hreceives hstate, if_neg fun h => hend ((isMarker_iff _ _).1 h),
    if_neg fun h => hstart ((isMarker_iff _ _).1 h)]

theorem lineByte_gap (hreceives : s.receives = true) {claim : Claim} {length : Nat} {rate : BitVec 2}
    (hstate : s.line.state = .gap claim length rate) (b : LineByte) :
    s.lineByte b = if LineByte.isMarker b startMarkerByte then s.countDamage else s := by
  rw [State.lineByte, if_pos hreceives, hstate]

theorem lineByte_sending (hreceives : s.receives = true) {claim : Claim} {wire : List Byte} {rate : BitVec 2}
    {echoed : Bool} (hstate : s.line.state = .sending claim wire rate echoed) (b : LineByte) :
    s.lineByte b =
      if echoed then (if LineByte.isMarker b startMarkerByte then s.countDamage else s)
      else s.setLine { s.line with state := .sending claim wire rate true } := by
  rw [State.lineByte, if_pos hreceives, hstate]

end Receiver

/-! ## One byte of a frame (R105, R108) -/

section Byte

variable {r : Reception} {b : LineByte}

theorem byte_faulty (hfault : r.fault.isSome = true) : r.byte b = r := by
  rw [Reception.byte, if_pos hfault]

theorem byte_framing (hfault : r.fault = none) (hframing : b.framingFault = true) :
    r.byte b = { r with fault := some .framing } := by
  rw [Reception.byte, if_neg (by simp [hfault]), if_pos hframing]

theorem byte_escaped (hfault : r.fault = none) (hframing : b.framingFault = false) (hescaped : r.escaped = true)
    {v : Byte} (hv : unescape? b.value = some v) : r.byte b = r.add v := by
  rw [Reception.byte, if_neg (by simp [hfault]), if_neg (by simp [hframing]), if_pos hescaped, hv]

theorem byte_badEscape (hfault : r.fault = none) (hframing : b.framingFault = false) (hescaped : r.escaped = true)
    (hv : unescape? b.value = none) : r.byte b = { r with fault := some .escape, escaped := false } := by
  rw [Reception.byte, if_neg (by simp [hfault]), if_neg (by simp [hframing]), if_pos hescaped, hv]

theorem byte_escape (hfault : r.fault = none) (hframing : b.framingFault = false) (hescaped : r.escaped = false)
    (hvalue : b.value = escapeByte) : r.byte b = { r with escaped := true } := by
  rw [Reception.byte, if_neg (by simp [hfault]), if_neg (by simp [hframing]), if_neg (by simp [hescaped]),
    if_pos hvalue]

theorem byte_plain (hfault : r.fault = none) (hframing : b.framingFault = false) (hescaped : r.escaped = false)
    (hvalue : b.value ≠ escapeByte) : r.byte b = r.add b.value := by
  rw [Reception.byte, if_neg (by simp [hfault]), if_neg (by simp [hframing]), if_neg (by simp [hescaped]),
    if_neg hvalue]

end Byte

theorem add_room {r : Reception} (hroom : r.content.length < 80) (b : Byte) :
    r.add b = { r with content := r.content ++ [b], escaped := false } := if_pos hroom

theorem unescape_escaped {b : Byte} (hb : b = 0xF9 ∨ b = 0xFA ∨ b = 0xFB) : unescape? (b ^^^ 0x10) = some b := by
  obtain rfl | rfl | rfl := hb <;> rfl

/-! ## The bytes of a frame arrive -/

/-- The controller while it receives a frame of which this content has arrived. -/
def receivingContent (s : State) (content : List Byte) (rate : BitVec 2) : State :=
  s.setLine { s.line with state := .receiving ⟨content, false, none, rate⟩ }

section Arriving

variable {s : State} {content : List Byte} {rate : BitVec 2}

theorem lineByte_content (hreceives : s.receives = true) {r : Reception} {b : Byte}
    (hb : b ≠ startMarkerByte ∧ b ≠ endMarkerByte) :
    (s.setLine { s.line with state := .receiving r }).lineByte ⟨b, false⟩ =
      s.setLine { s.line with state := .receiving (r.byte ⟨b, false⟩) } :=
  lineByte_inside (s := s.setLine { s.line with state := .receiving r }) hreceives rfl
    (by simpa using hb.1) (by simpa using hb.2)

/-- R105: one byte of content arrives, as itself or as an escape and the byte after it. -/
theorem lineBytes_escapeContent (hreceives : s.receives = true) (hroom : content.length < 80) (b : Byte) :
    (receivingContent s content rate).lineBytes (onLine (escapeContent b)) =
      receivingContent s (content ++ [b]) rate := by
  by_cases hb : b = 0xF9 ∨ b = 0xFA ∨ b = 0xFB
  · have hsecond : b ^^^ 0x10 ≠ 0xF9 ∧ b ^^^ 0x10 ≠ 0xFA := by obtain rfl | rfl | rfl := hb <;> decide
    rw [escapeContent, if_pos hb]
    change ((receivingContent s content rate).lineByte ⟨0xFB, false⟩).lineByte ⟨b ^^^ 0x10, false⟩ = _
    rw [receivingContent, lineByte_content hreceives (by decide), byte_escape rfl rfl rfl rfl,
      lineByte_content hreceives hsecond, byte_escaped rfl rfl rfl (unescape_escaped hb), add_room hroom]
    rfl
  · obtain ⟨hstart, hend, hescape⟩ : b ≠ 0xF9 ∧ b ≠ 0xFA ∧ b ≠ 0xFB := by simpa only [not_or] using hb
    rw [escapeContent, if_neg hb]
    change (receivingContent s content rate).lineByte ⟨b, false⟩ = _
    rw [receivingContent, lineByte_content hreceives ⟨hstart, hend⟩, byte_plain rfl rfl rfl hescape, add_room hroom]
    rfl

theorem lineBytes_append (s : State) (before behind : List LineByte) :
    s.lineBytes (before ++ behind) = (s.lineBytes before).lineBytes behind := List.foldl_append

/-- R105, R108: the escaped bytes of a content arrive. -/
theorem lineBytes_flatMap (hreceives : s.receives = true) (more : List Byte)
    (hroom : content.length + more.length ≤ 80) :
    (receivingContent s content rate).lineBytes (onLine (more.flatMap escapeContent)) =
      receivingContent s (content ++ more) rate := by
  induction more generalizing content with
  | nil => rw [List.append_nil]; rfl
  | cons b rest ih =>
    rw [List.length_cons] at hroom
    rw [List.flatMap_cons, onLine, List.map_append, lineBytes_append]
    change ((receivingContent s content rate).lineBytes (onLine (escapeContent b))).lineBytes
      (onLine (rest.flatMap escapeContent)) = _
    rw [lineBytes_escapeContent hreceives (by omega), ih (by simp; omega), List.append_assoc]
    rfl

/-- R108: the bytes of a frame arrive in LISTEN. -/
theorem exec_startMarker_frame (hlisten : s.Listening) (hroom : content.length ≤ 80) :
    exec (.startMarker (onLine (wireFrame content).tail)) s =
      .next ((receivingContent s content s.line.rate).endFrame ⟨content, false, none, s.line.rate⟩) := by
  obtain ⟨hreceives, hstate⟩ := hlisten
  have hbegin : s.lineByte ⟨startMarkerByte, false⟩ = receivingContent s [] s.line.rate :=
    (lineByte_listen hreceives hstate _).trans (if_pos ((isMarker_iff _ _).2 rfl))
  have hend : (receivingContent s content s.line.rate).lineByte ⟨endMarkerByte, false⟩ =
      (receivingContent s content s.line.rate).endFrame ⟨content, false, none, s.line.rate⟩ :=
    (lineByte_receiving (s := receivingContent s content s.line.rate) hreceives rfl _).trans
      (if_pos ((isMarker_iff _ _).2 rfl))
  have htail : onLine (wireFrame content).tail =
      onLine (content.flatMap escapeContent) ++ [⟨endMarkerByte, false⟩] := by
    simp [wireFrame, onLine]
  calc exec (.startMarker (onLine (wireFrame content).tail)) s
    _ = .next ((s.lineByte ⟨startMarkerByte, false⟩).lineBytes (onLine (wireFrame content).tail)) := rfl
    _ = .next ((receivingContent s content s.line.rate).lineByte ⟨endMarkerByte, false⟩) := by
      rw [hbegin, htail, lineBytes_append, lineBytes_flatMap hreceives content (by simpa using hroom)]
      rfl
    _ = _ := by rw [hend]

end Arriving

/-! ## The judgement (R106, R109) -/

theorem splitCrc_withCrc (body : List Byte) : splitCrc (withCrc body) = (body, bytes16 (crc16 body)) := by
  simp [splitCrc, withCrc, bytes16]

theorem judgeFrame_withCrc {body : List Byte} (h : body ≠ []) : judgeFrame (withCrc body) none = judgeKind body := by
  have hlength : ¬ (withCrc body).length < 3 := by
    have := List.length_pos_iff.2 h
    simp [withCrc, bytes16]
    omega
  rw [judgeFrame, splitCrc_withCrc, if_neg (by simp), if_neg hlength, if_neg (by simp)]

theorem join16_bytes (w : Word16) : join16 (lowByte w) (highByte w) = w := wordOf_bytes16 w

theorem judgeBeacon_beaconBody (number : Word16) : judgeBeacon (beaconBody number) = .valid (.beacon number) := by
  change Judgement.valid (.beacon (join16 (lowByte number) (highByte number))) = _
  rw [join16_bytes]

theorem judgeAnnounce_announceContent {body : List Byte} (hmin : 12 ≤ body.length) (hmax : body.length ≤ 64) :
    judgeAnnounce (announceContent body) = .valid (.announce body) := by
  have hlength : (BitVec.ofNat 8 body.length).toNat = body.length := by
    rw [BitVec.toNat_ofNat]
    omega
  exact if_pos ⟨rfl, by omega, by omega, hlength.symm⟩

/-- spec/10: the control byte of a POLL, mark by mark. -/
theorem pollControl_marks (p : PollFrame) :
    (pollControl p).extractLsb' 0 4 = p.channel ∧ (pollControl p).getLsbD 4 = p.echoSeq
    ∧ (pollControl p).getLsbD 5 = p.report.isSome ∧ (pollControl p).getLsbD 6 = p.reportSeq
    ∧ (pollControl p).getLsbD 7 = p.status.isSome := by
  rw [pollControl]
  generalize p.channel = channel, p.echoSeq = echoSeq, p.report.isSome = report, p.reportSeq = reportSeq,
    p.status.isSome = status
  revert channel echoSeq report reportSeq status
  decide

theorem judgePoll_pollBody (p : PollFrame) : judgePoll (pollBody p) = .valid (.poll p) := by
  obtain ⟨hchannel, hecho, hreport, hseq, hstatus⟩ := pollControl_marks p
  obtain ⟨address, channel, echoSeq, reportSeq, report, status⟩ := p
  cases report <;> cases status <;>
    simp_all [pollBody, judgePoll, bytes16, join16_bytes]

/-! ## A frame built in the layout of its kind -/

theorem toListen_receivingContent {s : State} (hstate : s.line.state = .listen) (content : List Byte)
    (rate : BitVec 2) : (receivingContent s content rate).toListen = s :=
  toListen_of_listen hstate

theorem endFrame_valid {s : State} {r : Reception} {frame : ValidFrame}
    (h : judgeFrame r.content r.endFault = .valid frame) : s.endFrame r = s.toListen.dispatch frame := by
  rw [State.endFrame, h]

theorem endFrame_damaged {s : State} {r : Reception} {cause : DamageCause}
    (h : judgeFrame r.content r.endFault = .damaged cause) : s.endFrame r = s.toListen.frameDamaged cause := by
  rw [State.endFrame, h]

theorem exec_poll_listening {s : State} (hlisten : s.Listening) (p : PollFrame) :
    exec (.poll p) s = .next (s.dispatchPoll p) :=
  congrArg Host.Outcome.next (arrive_listening hlisten (Reception.begins (withCrc (pollBody p))) (·.dispatchPoll p))

theorem exec_beacon_dispatch {s : State} (hlisten : s.Listening) (number : Word16) :
    exec (.beacon number) s = .next (s.dispatchBeacon number) :=
  congrArg Host.Outcome.next
    (arrive_listening hlisten (Reception.begins (withCrc (beaconBody number))) (·.dispatchBeacon number))

/-- R110: a valid frame whose bytes arrive in LISTEN is passed to the block that owns its kind. -/
theorem exec_startMarker_valid {s : State} (hlisten : s.Listening) {body : List Byte} {frame : ValidFrame}
    (hsome : body ≠ []) (hroom : body.length ≤ 78) (hjudged : judgeKind body = .valid frame) :
    exec (.startMarker (onLine (wireFrame (withCrc body)).tail)) s = .next (s.dispatch frame) := by
  have hlength : (withCrc body).length ≤ 80 := by
    simp [withCrc, bytes16]
    omega
  have hframe : judgeFrame (withCrc body) none = .valid frame := (judgeFrame_withCrc hsome).trans hjudged
  rw [exec_startMarker_frame hlisten hlength, endFrame_valid hframe]
  exact congrArg (fun t : State => Host.Outcome.next (t.dispatch frame)) (toListen_receivingContent hlisten.2 _ _)

theorem length_pollBody (p : PollFrame) : (pollBody p).length ≤ 78 := by
  obtain ⟨address, channel, echoSeq, reportSeq, report, status⟩ := p
  cases report <;> cases status <;> simp [pollBody, bytes16]

/-- Settles O60: the bytes that a frame of each kind puts on the line are that frame's row. -/
theorem framesOnTheLineAreReadBack : Obligations.FramesOnTheLineAreReadBack := by
  intro s hlisten arriving
  refine ⟨fun p => ?_, fun body hmin hmax => ?_, fun number => ?_, fun k i g seq t level reason identity => ?_⟩
  · calc arriving (pollBody p)
      _ = .next (s.dispatch (.poll p)) :=
        exec_startMarker_valid hlisten (by simp [pollBody]) (length_pollBody p) (judgePoll_pollBody p)
      _ = exec (.poll p) s := (exec_poll_listening hlisten p).symm
  · calc arriving (announceContent body)
      _ = .next (s.dispatch (.announce body)) :=
        exec_startMarker_valid hlisten (by simp [announceContent]) (by simp [announceContent]; omega)
          (judgeAnnounce_announceContent hmin hmax)
      _ = exec (.announce body) s := (exec_announce_listening hlisten hmin hmax).symm
  · calc arriving (beaconBody number)
      _ = .next (s.dispatch (.beacon number)) :=
        exec_startMarker_valid hlisten (by simp [beaconBody]) (by simp [beaconBody, bytes16])
          (judgeBeacon_beaconBody number)
      _ = exec (.beacon number) s := (exec_beacon_dispatch hlisten number).symm
  · have hanswer {body : List Byte} {kind : AnswerKind} (hsome : body ≠ []) (hroom : body.length ≤ 78)
        (hjudged : judgeKind body = .valid (.answerKind kind)) :
        arriving body = exec (.ignoredAnswerKind kind) s :=
      (exec_startMarker_valid hlisten hsome hroom hjudged).trans (exec_ignoredAnswerKind hlisten kind).symm
    exact ⟨hanswer (by simp [Answer.body]) (by simp [Answer.body, bytes16]) rfl,
      hanswer (by simp [Answer.body]) (by simp [Answer.body]) rfl,
      hanswer (by simp [Answer.body]) (by simp [Answer.body]) rfl,
      hanswer (by simp [Answer.body]) (by simp [Answer.body]) rfl,
      hanswer (by simp [Answer.body]) (by simp [Answer.body, bytes64]) rfl⟩

end Sys2Proof.Proofs.FramesReadBack
end

section
/-! PROOFS. The receiver, byte by byte (spec/06, R104 to R106, R108 to R110, R113 to R115): each byte in each state, the judgement at the end marker, and a pending beacon through a frame that is received. -/

namespace Sys2Proof.Proofs.ReceiverBytes

open Sys2Proof.Machine Sys2Proof.Laws
open Sys2Proof.Proofs.Changes (frameDamaged_toListen cancelled_receptive)
open Sys2Proof.Proofs.LineEvents
open Sys2Proof.Proofs.FramesReadBack
open Sys2Proof.Proofs.NodeTable (exec_announce_listening)

/-! ## The judgement, conversely (R109) -/

theorem bytes16_join16 (low high : Byte) : bytes16 (join16 low high) = [low, high] := by
  have hlow : (high ++ low).extractLsb' 0 8 = low := BitVec.extractLsb'_append_eq_right
  have hhigh : (high ++ low).extractLsb' 8 8 = high := BitVec.extractLsb'_append_eq_left
  exact congrArg₂ (fun x y => [x, y]) hlow hhigh

/-- A control byte is the marks that it is read as. -/
theorem marks_control (control : Byte) :
    BitVec.ofBool (control.getLsbD 7) ++ BitVec.ofBool (control.getLsbD 6) ++ BitVec.ofBool (control.getLsbD 5)
      ++ BitVec.ofBool (control.getLsbD 4) ++ control.extractLsb' 0 4 = control := by
  revert control
  decide

/-- The POLL whose content, with these two values, has this address and control byte. -/
def pollOf (address control : Byte) (report : Option Word16) (status : Option Byte) : PollFrame :=
  ⟨address, control.extractLsb' 0 4, control.getLsbD 4, control.getLsbD 6, report, status⟩

theorem pollBody_pollOf {address control : Byte} {report : Option Word16} {status : Option Byte}
    (hreport : control.getLsbD 5 = report.isSome) (hstatus : control.getLsbD 7 = status.isSome) :
    pollBody (pollOf address control report status) =
      0x21 :: address :: control :: (report.elim [] bytes16 ++ status.elim [] ([·])) := by
  have hcontrol : pollControl (pollOf address control report status) = control := by
    rw [pollControl]
    change BitVec.ofBool status.isSome ++ _ ++ BitVec.ofBool report.isSome ++ _ ++ _ = control
    rw [← hreport, ← hstatus]
    exact marks_control control
  rw [pollBody, hcontrol]
  cases report <;> cases status <;> rfl

/-- R109 check 5: only the content of a POLL passes. -/
theorem judgePoll_of_none {body : List Byte} (h : ∀ p, body ≠ pollBody p) : judgePoll body = .damaged .pollLength := by
  unfold judgePoll
  split
  · next address control rest =>
    have hnot (report : Option Word16) (status : Option Byte) (hreport : control.getLsbD 5 = report.isSome)
        (hstatus : control.getLsbD 7 = status.isSome) : rest ≠ report.elim [] bytes16 ++ status.elim [] ([·]) :=
      fun hrest => h (pollOf address control report status) (by rw [pollBody_pollOf hreport hstatus, hrest]; rfl)
    dsimp only
    split
    · next hreport hstatus => exact absurd rfl (hnot none none hreport hstatus)
    · next lo hi hreport hstatus =>
      exact absurd (by simp [bytes16_join16]) (hnot (some (join16 lo hi)) none hreport hstatus)
    · next st hreport hstatus => exact absurd rfl (hnot none (some st) hreport hstatus)
    · next lo hi st hreport hstatus =>
      exact absurd (by simp [bytes16_join16]) (hnot (some (join16 lo hi)) (some st) hreport hstatus)
    · rfl
  · rfl

/-- R109 check 6: only the content of an ANNOUNCE of 12 to 64 bytes passes. -/
theorem judgeAnnounce_of_none {body : List Byte}
    (h : ∀ x : List Byte, 12 ≤ x.length → x.length ≤ 64 → body ≠ announceContent x) :
    judgeAnnounce body = .damaged .announceLength := by
  unfold judgeAnnounce
  split
  · next address length rest =>
    refine if_neg ?_
    rintro ⟨rfl, hmin, hmax, hlength⟩
    have hbyte : BitVec.ofNat 8 rest.length = length := by rw [hlength, BitVec.ofNat_toNat, BitVec.setWidth_eq]
    exact h rest (by omega) (by omega) (by rw [announceContent, hbyte]; rfl)
  · rfl

/-- R109 check 7: only the content of a BEACON passes. -/
theorem judgeBeacon_of_none {body : List Byte} (h : ∀ number, body ≠ beaconBody number) :
    judgeBeacon body = .damaged .beaconLength := by
  unfold judgeBeacon
  split
  · next low high => exact absurd (by rw [beaconBody, bytes16_join16]; rfl) (h (join16 low high))
  · rfl

/-- R109 check 4: the kinds that are known. -/
theorem judgeKind_unknown {kind : Byte} {rest : List Byte}
    (h : kind ∉ ([0x21, 0x2A, 0x40, 0x61, 0x62, 0x63, 0x64, 0x65] : List Byte)) :
    judgeKind (kind :: rest) = .damaged .unknownKind := by
  simp only [List.mem_cons, List.not_mem_nil, or_false, not_or] at h
  obtain ⟨hpoll, hannounce, hbeacon, hlevel, hwait, hhalt, hrefuse, hassign⟩ := h
  simp only [judgeKind, hpoll, hannounce, hbeacon, hlevel, hwait, hhalt, hrefuse, hassign, if_false]

theorem judgeKind_answer {kind : Byte} {rest : List Byte} (h : kind ∈ ([0x61, 0x62, 0x63, 0x64, 0x65] : List Byte)) :
    ∃ answer, judgeKind (kind :: rest) = .valid (.answerKind answer) := by
  simp only [List.mem_cons, List.not_mem_nil, or_false] at h
  obtain rfl | rfl | rfl | rfl | rfl := h
  · exact ⟨.level, rfl⟩
  · exact ⟨.wait, rfl⟩
  · exact ⟨.halt, rfl⟩
  · exact ⟨.refuse, rfl⟩
  · exact ⟨.assign, rfl⟩

/-! ## The end of a frame -/

section EndFrame

variable {s : State} {r : Reception}

/-- R109: a frame that fails a check is damaged, and none fails by being cut short. -/
theorem endFrame_dropped {cause : DamageCause} (h : judgeFrame r.content r.endFault = .damaged cause)
    (hcause : cause ≠ .cutShort) : s.endFrame r = s.endDamaged := by
  rw [endFrame_damaged h, frameDamaged_toListen, frameDamaged_other hcause]

theorem endFault_isSome : r.endFault.isSome = true ↔ r.fault.isSome = true ∨ r.escaped = true := by
  rw [Reception.endFault]
  cases r.fault <;> cases r.escaped <;> simp

theorem endFrame_faulty (h : r.fault.isSome = true ∨ r.escaped = true) : s.endFrame r = s.endDamaged :=
  endFrame_dropped (cause := .faultNoted) (by rw [judgeFrame, if_pos (endFault_isSome.2 h)]) (by decide)

/-- A frame of fewer than three bytes is damaged, by a fault noted or as too short. -/
theorem endFrame_short (h : r.content.length < 3) : s.endFrame r = s.endDamaged := by
  by_cases hfault : r.fault.isSome = true ∨ r.escaped = true
  · exact endFrame_faulty hfault
  · refine endFrame_dropped (cause := .tooShort) ?_ (by decide)
    rw [judgeFrame, if_neg (mt endFault_isSome.1 hfault), if_pos h]

theorem endFrame_badCrc (h3 : 3 ≤ r.content.length)
    (hcrc : bytes16 (crc16 (splitCrc r.content).1) ≠ (splitCrc r.content).2) : s.endFrame r = s.endDamaged := by
  by_cases hfault : r.fault.isSome = true ∨ r.escaped = true
  · exact endFrame_faulty hfault
  · refine endFrame_dropped (cause := .crcFailed) ?_ (by decide)
    rw [judgeFrame, if_neg (mt endFault_isSome.1 hfault), if_neg (by omega), if_pos hcrc]

/-- A frame that passes the first three checks is judged by its kind. -/
theorem judgeFrame_passes (hfault : ¬ (r.fault.isSome = true ∨ r.escaped = true)) (h3 : 3 ≤ r.content.length)
    (hcrc : bytes16 (crc16 (splitCrc r.content).1) = (splitCrc r.content).2) :
    judgeFrame r.content r.endFault = judgeKind (splitCrc r.content).1 := by
  rw [judgeFrame, if_neg (mt endFault_isSome.1 hfault), if_neg (by omega), if_neg (by simpa using hcrc)]

end EndFrame

/-! ## A pending beacon through a frame (R114) -/

theorem setLine_raiseRecord (s : State) (l : LineController) (i : SlotNo) (r : RecordReasons) :
    (s.setLine l).raiseRecord i r = (s.raiseRecord i r).setLine l := by
  cases hx : (s.slot i).record with
  | none =>
    have hx' : ((s.setLine l).slot i).record = none := hx
    simp only [State.raiseRecord, hx, hx']
  | some x =>
    have hx' : ((s.setLine l).slot i).record = some x := hx
    cases hr : r.isEmpty with
    | true => simp only [raiseRecord_empty _ _ hr]
    | false => rw [raiseRecord_eq hx hr, raiseRecord_eq hx' hr]; rfl

theorem setLine_raiseNode (s : State) (l : LineController) (n : NodeNo) (r : NodeReasons) :
    (s.setLine l).raiseNode n r = (s.raiseNode n r).setLine l := by
  cases hr : r.isEmpty with
  | true => simp only [raiseNode_empty _ _ hr]
  | false => simp only [raiseNode_eq _ _ hr]; rfl

theorem setLine_cycleStart (s : State) (l : LineController) (new : Word16) :
    (s.setLine l).cycleStart new = (s.cycleStart new).setLine l := by
  unfold State.cycleStart State.fireSchedule
  dsimp only
  rw [apply_ite (State.setLine · l)]
  rfl

/-- What a received frame does at the line controller, whatever else the line holds: it hands over an answer, or it ends without one. -/
def EndsFrame (f : LineController → State) : Prop :=
  (∃ (x : State) (a : Answer), ∀ l, f l = { x with line := l.answering a })
  ∨ ∃ x : State, ∀ l, f l = { x with line := l.resting }

section Deliver

variable (s : State)

theorem endsFrame_endWithoutAnswer : EndsFrame (fun l => (s.setLine l).endWithoutAnswer) :=
  .inr ⟨s, fun l => endWithoutAnswer_eq (s.setLine l)⟩

theorem endsFrame_refusePoll (k : Key) (reason : RefuseReason) :
    EndsFrame (fun l => (s.setLine l).refusePoll k reason) :=
  .inl ⟨s.captureStray ⟨reason.strayKind, addressByte k.node, some k.channel, none⟩, .refuse k reason, fun _ => rfl⟩

theorem endsFrame_answerFrom (k : Key) (i : SlotNo) (r : Record) (p : PollFrame) :
    EndsFrame (fun l => (s.setLine l).answerFrom k i r p) := by
  refine .inl ⟨(s.setRecord i (r.polled p s.cycle.counter)).raiseRecord i (r.pollReasons p), r.answer k i p,
    fun l => ?_⟩
  change (((s.setRecord i (r.polled p s.cycle.counter)).setLine l).raiseRecord i (r.pollReasons p)).handOver _ = _
  rw [setLine_raiseRecord]
  rfl

theorem endsFrame_lookupPoll (n : NodeNo) (p : PollFrame) : EndsFrame (fun l => (s.setLine l).lookupPoll n p) := by
  have hlookup (l : LineController) : (s.setLine l).lookupKey ⟨n, p.channel⟩ = s.lookupKey ⟨n, p.channel⟩ := rfl
  cases hfound : s.lookupKey ⟨n, p.channel⟩ with
  | none =>
    simp only [State.lookupPoll, hlookup, hfound]
    exact endsFrame_refusePoll s _ _
  | some found =>
    simp only [State.lookupPoll, hlookup, hfound]
    exact endsFrame_answerFrom s _ _ _ p

theorem endsFrame_gated (n : NodeNo) (p : PollFrame) :
    EndsFrame (fun l => ((s.setLine l).passGate n p.status).lookupPoll n p) := by
  have hgate (l : LineController) : (s.setLine l).passGate n p.status = (s.passGate n p.status).setLine l :=
    setLine_raiseNode (s.setNode n ((s.node n).gated p.status)) l n _
  simp only [hgate]
  exact endsFrame_lookupPoll _ n p

theorem endsFrame_takePoll (n : NodeNo) (p : PollFrame) : EndsFrame (fun l => (s.setLine l).takePoll n p) := by
  have hnode (l : LineController) : ((s.setLine l).node n).state = (s.node n).state := rfl
  cases hstate : (s.node n).state <;> simp only [State.takePoll, hnode, hstate]
  case free => exact endsFrame_refusePoll s _ _
  case offered => exact endsFrame_refusePoll s _ _
  case retiring => exact endsFrame_refusePoll s _ _
  case assigned => exact endsFrame_gated s n p
  case bound => exact endsFrame_gated s n p
  case silent => exact endsFrame_gated s n p

theorem endsFrame_takeAnnounce (n : NodeNo) (identity : Identity) :
    EndsFrame (fun l => (s.setLine l).takeAnnounce n identity) := by
  have hnode (l : LineController) : ((s.setLine l).node n).state = (s.node n).state := rfl
  cases hstate : (s.node n).state.reannounces <;> simp only [State.takeAnnounce, hnode, hstate]
  · exact .inl ⟨s, .assign n identity, fun _ => rfl⟩
  · simp only [if_true, setLine_raiseNode]
    exact .inl ⟨s.raiseNode n announcedReason, .assign n identity, fun _ => rfl⟩

theorem endsFrame_wakeBy (n : NodeNo) : EndsFrame (fun l => (s.setLine l).wakeBy n) := by
  simp only [State.wakeBy, setLine_raiseNode]
  exact endsFrame_endWithoutAnswer ((s.raiseNode n announcedReason).raise .wake)

/-- R55 to R60: an ANNOUNCE does the same whatever the line holds. -/
theorem endsFrame_dispatchAnnounce (body : List Byte) : EndsFrame (fun l => (s.setLine l).dispatchAnnounce body) := by
  have hannounced (l : LineController) (v : Identity) : (s.setLine l).announced v = s.announced v := rfl
  have hcycle (l : LineController) : (s.setLine l).cycle = s.cycle := rfl
  cases hsearch : searchIdentity body with
  | none =>
    simp only [State.dispatchAnnounce, hsearch]
    exact endsFrame_endWithoutAnswer s
  | some identity =>
    simp only [State.dispatchAnnounce, hsearch, hannounced, hcycle]
    split
    · exact endsFrame_wakeBy s _
    · exact endsFrame_endWithoutAnswer s
    · exact endsFrame_takeAnnounce s _ identity
    · exact endsFrame_endWithoutAnswer (s.captureStray ⟨.announceUnclaimed, 0, none, some identity⟩)

/-- R24 to R39: a POLL does the same whatever the line holds, the answer range aside. -/
theorem endsFrame_dispatchPoll (p : PollFrame) :
    ∃ f, EndsFrame f ∧ ∀ beacon, (s.setLine { s.line with beacon := beacon }).dispatchPoll p
      = f { s.line with beacon := beacon } := by
  have htarget (beacon : Option Word16) :
      (s.setLine { s.line with beacon := beacon }).pollTarget p.address = s.pollTarget p.address := rfl
  cases hfound : s.pollTarget p.address with
  | none =>
    refine ⟨_, endsFrame_endWithoutAnswer s, fun beacon => ?_⟩
    simp only [State.dispatchPoll, htarget, hfound]
  | some n =>
    refine ⟨_, endsFrame_takePoll s n p, fun beacon => ?_⟩
    simp only [State.dispatchPoll, htarget, hfound]

/-- R97 to R102: a BEACON that brings no clash does the same whatever the line holds. -/
theorem endsFrame_dispatchBeacon (number : Word16) (hrun : s.cycle.state ≠ .running) :
    EndsFrame (fun l => (s.setLine l).dispatchBeacon number) := by
  refine .inr ⟨s.hearBeacon number, fun l => ?_⟩
  have hhear : (s.setLine l).hearBeacon number = (s.hearBeacon number).setLine l := by
    unfold State.hearBeacon
    cases hstate : s.cycle.state
    all_goals have hstate' : (s.setLine l).cycle.state = _ := hstate; simp only [hstate']
    · exact absurd hstate hrun
    · simp only [State.lock, setLine_cycleStart]; rfl
    · simp only [State.beaconStart, State.firstMiss, setLine_cycleStart, apply_ite (State.setLine · l)]; rfl
    · simp only [State.beaconStart, State.secondMiss, setLine_cycleStart, apply_ite (State.setLine · l)]; rfl
  change ((s.setLine l).hearBeacon number).endWithoutAnswer = _
  rw [hhear]
  exact endWithoutAnswer_eq ((s.hearBeacon number).setLine l)

end Deliver

/-- R114: the line after a frame that acted with no beacon pending, with the beacon that was pending. -/
def withPending (t : State) (beacon : Option Word16) : State :=
  { t with line :=
    if t.line.answer.isSome then { t.line with beacon := beacon } else { t.line with beacon := beacon }.resting }

/-- R114: a pending beacon is kept through an answer and is taken at the end of a frame that yields none. -/
theorem endsFrame_withPending {f : LineController → State} (hf : EndsFrame f) {l : LineController}
    (hanswer : l.answer = none) (beacon : Option Word16) :
    f { l with beacon := beacon } = withPending (f { l with beacon := none }) beacon := by
  obtain ⟨x, a, hf⟩ | ⟨x, hf⟩ := hf
  · rw [hf, hf]
    rfl
  · have hnone : (LineController.resting { l with beacon := none }).answer.isSome = false := by
      simp [LineController.resting, hanswer]
    rw [hf, hf, withPending, if_neg (by simp [hnone])]
    rfl

section ValidFrames

variable {s : State} {r : Reception}

/-- The state at the end marker as a frame finds it that no beacon pending concerns. -/
def freed (s : State) : State := { s with line := { s.line with state := .listen, beacon := none } }

theorem freed_listening (hreceives : s.receives = true) : (freed s).Listening := ⟨hreceives, rfl⟩

/-- R110, R114: a valid frame that is received acts as its row does with no beacon pending. -/
theorem endFrame_acts {frame : ValidFrame} {row : Instr} {f : LineController → State}
    (hjudged : judgeFrame r.content r.endFault = .valid frame) (hanswer : s.line.answer = none)
    (hexec : exec row (freed s) = .next ((freed s).dispatch frame)) (hf : EndsFrame f)
    (hdispatch : ∀ beacon, (s.toListen.setLine { s.toListen.line with beacon := beacon }).dispatch frame
      = f { s.toListen.line with beacon := beacon }) :
    ∃ t, exec row (freed s) = .next t ∧ s.endFrame r = withPending t s.line.beacon := by
  refine ⟨_, hexec, ?_⟩
  calc s.endFrame r
    _ = s.toListen.dispatch frame := endFrame_valid hjudged
    _ = f { s.toListen.line with beacon := s.line.beacon } := hdispatch s.line.beacon
    _ = withPending (f { s.toListen.line with beacon := none }) s.line.beacon :=
      endsFrame_withPending hf (l := s.toListen.line) hanswer s.line.beacon
    _ = withPending ((freed s).dispatch frame) s.line.beacon :=
      congrArg (withPending · s.line.beacon) (hdispatch none).symm

theorem endFrame_poll {p : PollFrame} (hreceives : s.receives = true) (hanswer : s.line.answer = none)
    (hjudged : judgeFrame r.content r.endFault = .valid (.poll p)) :
    ∃ t, exec (.poll p) (freed s) = .next t ∧ s.endFrame r = withPending t s.line.beacon := by
  obtain ⟨f, hf, hdispatch⟩ := endsFrame_dispatchPoll s.toListen p
  exact endFrame_acts hjudged hanswer (exec_poll_listening (freed_listening hreceives) p) hf hdispatch

theorem endFrame_announce {x : List Byte} (hreceives : s.receives = true) (hanswer : s.line.answer = none)
    (hmin : 12 ≤ x.length) (hmax : x.length ≤ 64) (hjudged : judgeFrame r.content r.endFault = .valid (.announce x)) :
    ∃ t, exec (.announce x) (freed s) = .next t ∧ s.endFrame r = withPending t s.line.beacon :=
  endFrame_acts hjudged hanswer (exec_announce_listening (freed_listening hreceives) hmin hmax)
    (endsFrame_dispatchAnnounce s.toListen x) (fun _ => rfl)

theorem endFrame_beacon {number : Word16} (hreceives : s.receives = true) (hanswer : s.line.answer = none)
    (hrun : s.cycle.state ≠ .running) (hjudged : judgeFrame r.content r.endFault = .valid (.beacon number)) :
    ∃ t, exec (.beacon number) (freed s) = .next t ∧ s.endFrame r = withPending t s.line.beacon :=
  endFrame_acts hjudged hanswer (exec_beacon_dispatch (freed_listening hreceives) number)
    (endsFrame_dispatchBeacon s.toListen number hrun) (fun _ => rfl)

/-- R95, R115: a clash cancels the beacon that is pending. -/
theorem endFrame_clash {number : Word16} (hreceives : s.receives = true) (hrun : s.cycle.state = .running)
    (hjudged : judgeFrame r.content r.endFault = .valid (.beacon number)) :
    exec (.beacon number) (freed s) = .next (s.endFrame r) := by
  have hear (u : State) (hcycle : u.cycle.state = .running) : u.hearBeacon number = u.clash := by
    simp only [State.hearBeacon, hcycle]
  have hclash : (freed s).clash = s.toListen.clash := by
    simp only [State.clash, cancelBeacon_eq, State.changeCycleState, line_raise, line_setCycle]
    rw [cancelled_receptive (l := (freed s).line) (.inl rfl), cancelled_receptive (l := s.toListen.line) (.inl rfl)]
    rfl
  rw [exec_beacon_dispatch (freed_listening hreceives), endFrame_valid hjudged]
  change _ = Host.Outcome.next (s.toListen.hearBeacon number).endWithoutAnswer
  rw [State.dispatchBeacon, hear (freed s) hrun, hear s.toListen hrun, hclash]

end ValidFrames

/-! ## Each byte -/

section Bytes

variable {s : State} {r : Reception}

theorem setLine_state {state : LineState} (h : s.line.state = state) :
    ({ s with line := { s.line with state := state } } : State) = s := by
  rw [← h]

theorem lineByte_endMarker (hreceives : s.receives = true) (hstate : s.line.state = .receiving r) :
    s.lineByte ⟨endMarkerByte, false⟩ = s.endFrame r :=
  (lineByte_receiving hreceives hstate _).trans (if_pos ((isMarker_iff _ _).2 rfl))

theorem lineByte_startMarker (hreceives : s.receives = true) (hstate : s.line.state = .receiving r) :
    s.lineByte ⟨startMarkerByte, false⟩ = s.countDamage.beginFrame :=
  (lineByte_receiving hreceives hstate _).trans ((if_neg (by decide)).trans
    ((if_pos ((isMarker_iff _ _).2 rfl)).trans (frameDamaged_cutShort s)))

/-- R108: a start marker in LISTEN begins a frame; any other byte is disregarded. -/
theorem lineByte_listen_iff (hreceives : s.receives = true) (hstate : s.line.state = .listen) (b : LineByte) :
    (b = ⟨startMarkerByte, false⟩ → s.lineByte b = s.beginFrame)
    ∧ (¬ b = ⟨startMarkerByte, false⟩ → s.lineByte b = s) :=
  ⟨fun h => (lineByte_listen hreceives hstate b).trans (if_pos ((isMarker_iff _ _).2 h)),
    fun h => (lineByte_listen hreceives hstate b).trans (if_neg (mt (isMarker_iff _ _).1 h))⟩

/-- R113: a start marker in GAP is a collision; any other byte is disregarded. -/
theorem lineByte_gap_iff (hreceives : s.receives = true) {claim : Claim} {length : Nat} {rate : BitVec 2}
    (hstate : s.line.state = .gap claim length rate) (b : LineByte) :
    (b = ⟨startMarkerByte, false⟩ → s.lineByte b = s.countDamage)
    ∧ (¬ b = ⟨startMarkerByte, false⟩ → s.lineByte b = s) :=
  ⟨fun h => (lineByte_gap hreceives hstate b).trans (if_pos ((isMarker_iff _ _).2 h)),
    fun h => (lineByte_gap hreceives hstate b).trans (if_neg (mt (isMarker_iff _ _).1 h))⟩

/-- R113: in SENDING, once the part's own start marker has been read back, a start marker is a collision. -/
theorem lineByte_echoed_iff (hreceives : s.receives = true) {claim : Claim} {wire : List Byte} {rate : BitVec 2}
    (hstate : s.line.state = .sending claim wire rate true) (b : LineByte) :
    (b = ⟨startMarkerByte, false⟩ → s.lineByte b = s.countDamage)
    ∧ (¬ b = ⟨startMarkerByte, false⟩ → s.lineByte b = s) :=
  ⟨fun h => (lineByte_sending hreceives hstate b).trans (if_pos ((isMarker_iff _ _).2 h)),
    fun h => (lineByte_sending hreceives hstate b).trans (if_neg (mt (isMarker_iff _ _).1 h))⟩

theorem unescape?_eq_none {b : Byte} (h : b ∉ ([0xE9, 0xEA, 0xEB] : List Byte)) : unescape? b = none := by
  simpa [unescape?] using h

theorem unescape?_eq_some {b : Byte} (h : b ∈ ([0xE9, 0xEA, 0xEB] : List Byte)) : unescape? b = some (b ^^^ 0x10) := by
  rw [unescape?, if_pos (by simpa using h)]

/-- R105, R108: the content byte that a byte of the frame stands for, by itself or behind an escape. -/
theorem byte_content {b : LineByte} {v : Byte} (hfault : r.fault = none) (hframing : b.framingFault = false)
    (hv : (r.escaped = false ∧ b.value ≠ 0xFB ∧ v = b.value)
      ∨ (r.escaped = true ∧ b.value ∈ ([0xE9, 0xEA, 0xEB] : List Byte) ∧ v = b.value ^^^ 0x10)) :
    r.byte b = r.add v := by
  obtain ⟨hescaped, hvalue, rfl⟩ | ⟨hescaped, hvalue, rfl⟩ := hv
  · exact byte_plain hfault hframing hescaped hvalue
  · exact byte_escaped hfault hframing hescaped (unescape?_eq_some hvalue)

theorem add_full (hfull : 80 ≤ r.content.length) (b : Byte) :
    r.add b = { r with fault := some .overrun, escaped := false } :=
  if_neg (show ¬ r.content.length < 80 by omega)

/-- Behind three bytes and more the content before the CRC has a kind. -/
theorem exists_kind {content : List Byte} (h3 : 3 ≤ content.length) :
    ∃ kind rest, (splitCrc content).1 = kind :: rest := by
  refine List.exists_cons_of_length_pos ?_
  simp [splitCrc]
  omega

theorem exec_startMarker_append {bytes : List LineByte} {t : State} (h : exec (.startMarker bytes) s = .next t)
    (b : LineByte) : exec (.startMarker (bytes ++ [b])) s = .next (t.lineByte b) := by
  have ht : s.lineBytes (⟨startMarkerByte, false⟩ :: bytes) = t := Host.Outcome.next.inj h
  change Host.Outcome.next (s.lineBytes (⟨startMarkerByte, false⟩ :: bytes ++ [b])) = _
  rw [lineBytes_append, ht]
  rfl

end Bytes

/-- Settles O38: the bytes in each state of the controller, by its equations, and the frame at its end marker by the judgement. -/
theorem receiverTakesEachByte : Obligations.ReceiverTakesEachByte := by
  refine ⟨fun s bytes t b hexec => exec_startMarker_append hexec b, fun s => rfl, ?_⟩
  intro s b hreceives fresh counted isStart
  refine ⟨fun hstate => lineByte_listen_iff hreceives hstate b,
    fun claim length rate hstate => lineByte_gap_iff hreceives hstate b,
    fun claim wire rate hstate => lineByte_sending hreceives hstate b,
    fun claim wire rate hstate => lineByte_echoed_iff hreceives hstate b, ?_⟩
  intro frame hstate goes
  refine ⟨fun hb => ?_, fun hb => ?_, fun hstart hend => ?_⟩
  · rw [show b = _ from hb]
    exact lineByte_startMarker hreceives hstate
  · intro damaged faulty body crc kind
    have hbyte : s.lineByte b = s.endFrame frame := by
      rw [hb]
      exact lineByte_endMarker hreceives hstate
    rw [hbyte]
    have hdamaged : s.endDamaged = damaged := endDamaged_eq s
    refine ⟨fun h => (endFrame_faulty h).trans hdamaged, fun h => (endFrame_short h).trans hdamaged,
      fun h3 hcrc => (endFrame_badCrc h3 hcrc).trans hdamaged, fun hfault h3 hcrc => ?_⟩
    have hjudge : judgeFrame frame.content frame.endFault = judgeKind body := judgeFrame_passes hfault h3 hcrc
    obtain ⟨k, rest, hbody⟩ : ∃ k rest, body = k :: rest := exists_kind h3
    have hkind : kind = k := by
      change body.headD 0 = k
      rw [hbody]
      rfl
    have hdropped {cause : DamageCause} (hcause : cause ≠ .cutShort) (h : judgeKind body = .damaged cause) :
        s.endFrame frame = damaged := (endFrame_dropped (hjudge.trans h) hcause).trans hdamaged
    refine ⟨fun h => ?_, fun h hnone => ?_, fun h hnone => ?_, fun h hnone => ?_, fun h => ?_, fun hlaw => ?_⟩
    · rw [hkind] at h
      exact hdropped (cause := .unknownKind) (by decide) (by rw [hbody, judgeKind_unknown h])
    · have hpoll : judgeKind body = judgePoll body := by rw [hbody, ← hkind, h]; rfl
      exact hdropped (cause := .pollLength) (by decide) (hpoll.trans (judgePoll_of_none hnone))
    · have hannounce : judgeKind body = judgeAnnounce body := by rw [hbody, ← hkind, h]; rfl
      exact hdropped (cause := .announceLength) (by decide) (hannounce.trans (judgeAnnounce_of_none hnone))
    · have hbeacon : judgeKind body = judgeBeacon body := by rw [hbody, ← hkind, h]; rfl
      exact hdropped (cause := .beaconLength) (by decide) (hbeacon.trans (judgeBeacon_of_none hnone))
    · rw [hkind] at h
      obtain ⟨answer, hanswer⟩ := judgeKind_answer (rest := rest) h
      rw [endFrame_valid (hjudge.trans (hbody ▸ hanswer))]
      exact endWithoutAnswer_eq s
    · have hanswer : s.line.answer = none := by
        rw [State.LineLaw, hstate] at hlaw
        exact hlaw.1
      refine ⟨fun p hp => endFrame_poll hreceives hanswer (hjudge.trans (hp ▸ judgePoll_pollBody p)),
        fun x hmin hmax hx => endFrame_announce hreceives hanswer hmin hmax
          (hjudge.trans (hx ▸ judgeAnnounce_announceContent hmin hmax)), fun number hnumber => ?_⟩
      have hbeacon : judgeFrame frame.content frame.endFault = .valid (.beacon number) := by
        rw [hjudge, hnumber]
        exact judgeBeacon_beaconBody number
      exact ⟨fun hrun => endFrame_beacon hreceives hanswer hrun hbeacon,
        fun hrun => endFrame_clash hreceives hrun hbeacon⟩
  · have hbyte : s.lineByte b = goes (frame.byte b) := lineByte_inside hreceives hstate hstart hend
    rw [hbyte]
    refine ⟨fun hfault => ?_, fun hfault hframing => congrArg goes (byte_framing hfault hframing),
      fun hfault hframing => ⟨fun hescaped hvalue => congrArg goes (byte_escape hfault hframing hescaped hvalue),
        fun hescaped hvalue => congrArg goes (byte_badEscape hfault hframing hescaped (unescape?_eq_none hvalue)),
        fun v hv => ?_⟩⟩
    · rw [byte_faulty hfault]
      exact setLine_state hstate
    · rw [byte_content hfault hframing hv]
      exact ⟨fun hroom => congrArg goes (add_room hroom v), fun hfull => congrArg goes (add_full hfull v)⟩

end Sys2Proof.Proofs.ReceiverBytes
end

section
/-! PROOFS. The two reads that act (R111, R122, R123, R125), the resets (R118, R130, R154, R155), and the accesses of the start-up clear (R155). -/

namespace Sys2Proof.Proofs.ActingReads

open Sys2Proof.Machine Sys2Proof.Laws

/-! ## The first byte of a read that acts -/

theorem exec_takeFieldLatch (s : State) : exec .takeFieldLatch s = .next (s.latchRead .takeField) := rfl

theorem exec_damagedCountReadLatch (s : State) :
    exec .damagedCountReadLatch s = .next (s.latchRead .damagedCount) := rfl

/-- R122: what the take latch holds, lowest address first. -/
theorem readField_latchTake (s : State) (latch : TakeLatch) (h : s.latchTake.take = some latch) :
    (latched s .takeField).readField .takeField = takeBytes (some latch) :=
  congrArg takeBytes h

/-- R122: the first byte of a take field read, in either direction. -/
theorem exec_takeFieldLatch_ready {s : State} (hready : s.HostReady .takeField true) {latch : TakeLatch}
    (htake : s.latchTake.take = some latch) {b0 b1 b2 b3 : Byte} (hbytes : takeBytes (some latch) = [b0, b1, b2, b3]) :
    exec .takeFieldLatch s =
      .next { s with
        take := some latch
        port := match s.rowDirection with
          | .ascending => s.portLatched .takeField b0 [b1, b2, b3]
          | .descending => s.portLatched .takeField b3 [b2, b1, b0] } := by
  have hread := (readField_latchTake s latch htake).trans hbytes
  have hstate : latched s .takeField = { s with take := some latch } := by
    rw [← htake]
    rfl
  rw [exec_takeFieldLatch]
  cases hdirection : s.rowDirection with
  | ascending =>
    rw [latchRead_ready (.inl rfl) hready (by rw [hdirection, hread]; rfl), hstate]
  | descending =>
    rw [latchRead_ready (.inl rfl) hready (by rw [hdirection, hread]; rfl), hstate]

theorem latchTake_record {s : State} {i : SlotNo} {rest : List Subject} {r : Record}
    (hhead : s.attention = .record i :: rest) (hr : (s.slot i).record = some r) :
    s.latchTake.take = some (.record i r.generation r.reasons .none false) := by
  simp only [State.latchTake, hhead, State.latchOf, hr]

/-- spec/10: the fourth byte of the take field of a record: bit 8 of the slot number and the three reasons. -/
theorem recordTakeByte (i : SlotNo) (r : RecordReasons) :
    (r.bits ||| if i.val ≥ 256 then 0x80 else 0) =
      BitVec.ofBool (decide (256 ≤ i.val)) ++ 0#4 ++ BitVec.ofBool r.pendingPoll ++ BitVec.ofBool r.reported
        ++ BitVec.ofBool r.delivered := by
  rw [RecordReasons.bits]
  generalize r.pendingPoll = pendingPoll, r.reported = reported, r.delivered = delivered
  by_cases h : i.val ≥ 256
  · rw [if_pos h, decide_eq_true h]
    revert pendingPoll reported delivered
    decide
  · rw [if_neg h, decide_eq_false h]
    revert pendingPoll reported delivered
    decide

theorem lowByte_word16 (n : Nat) : lowByte (word16 n) = BitVec.ofNat 8 n := by
  refine BitVec.eq_of_toNat_eq ?_
  simp only [lowByte, word16, BitVec.extractLsb'_toNat, BitVec.toNat_ofNat, Nat.shiftRight_zero]
  omega

theorem highByte_word16 (n : Nat) : highByte (word16 n) = BitVec.ofNat 8 (n / 256) := by
  refine BitVec.eq_of_toNat_eq ?_
  simp only [highByte, word16, BitVec.extractLsb'_toNat, BitVec.toNat_ofNat, Nat.shiftRight_eq_div_pow]
  omega

/-- Settles O46: the latch of no subject, of a record and of a node, and its four bytes. -/
theorem takeLatchesTheHead : Obligations.TakeLatchesTheHead := by
  intro s hready latches bit
  refine ⟨fun hnone => ?_, fun i rest r hhead hr => ?_, fun n rest hhead => ?_⟩
  · exact exec_takeFieldLatch_ready hready (by simp only [State.latchTake, hnone]) rfl
  · refine exec_takeFieldLatch_ready hready (latchTake_record hhead hr) ?_
    rw [takeBytes, recordTakeByte, lowByte_word16]
  · refine exec_takeFieldLatch_ready hready (by simp only [State.latchTake, hhead, State.latchOf]) ?_
    rw [takeBytes, NodeReasons.bits, DirectoryCommands.marks_seven]
    rfl

/-! ## The last byte of a read that acts -/

theorem exec_takeFieldCompletion {s : State} {a : Access} {t : Transfer} (hreading : s.Reading .takeField a t)
    (hclear : a.duringClear = false) {u : State} (hu : s.completeTake = { u with take := none }) :
    exec .takeFieldCompletion s =
      .next { u with take := none, port := s.portRead .takeField a t { u with take := none } } := by
  have hcompleted : (if a.duringClear = true then s else completed s .takeField) = { u with take := none } := by
    rw [hclear]
    exact hu
  change Host.Outcome.next (s.completeRead .takeField) = _
  rw [completeRead_eq (.inl rfl) hreading, hcompleted]

section CompleteTake

variable {s : State}

/-- R125: a latched record that is off the list, or gone, is left alone. -/
theorem completeTake_record_gone {i : SlotNo} {g : Byte} {latched since : RecordReasons} {gone : Bool}
    (htake : s.take = some (.record i g latched since gone))
    (h : gone = true ∨ .record i ∉ s.attention ∨ (s.slot i).record = none) :
    s.completeTake = { s with take := none } := by
  simp only [State.completeTake, htake]
  cases hr : (s.slot i).record with
  | none => rfl
  | some r =>
    refine if_neg ?_
    rintro ⟨hgone, hlist⟩
    simp [hgone, hr, List.contains_iff_mem.1 hlist] at h

/-- R123: the latched reasons are removed, those raised since are kept. -/
theorem completeTake_record {i : SlotNo} {g : Byte} {latched since : RecordReasons} {r : Record}
    (htake : s.take = some (.record i g latched since false)) (hlist : .record i ∈ s.attention)
    (hr : (s.slot i).record = some r) :
    s.completeTake =
      { s.setRecord i { r with reasons := r.reasons.minus (latched.minus since) } with
        take := none
        attention := requeue s.attention (.record i) (!(r.reasons.minus (latched.minus since)).isEmpty) } := by
  simp only [State.completeTake, htake, hr]
  exact if_pos ⟨trivial, List.contains_iff_mem.2 hlist⟩

theorem completeTake_node_gone {n : NodeNo} {latched since : NodeReasons} {gone : Bool}
    (htake : s.take = some (.node n latched since gone)) (h : gone = true ∨ .node n ∉ s.attention) :
    s.completeTake = { s with take := none } := by
  simp only [State.completeTake, htake]
  refine if_neg ?_
  rintro ⟨hgone, hlist⟩
  simp [hgone, List.contains_iff_mem.1 hlist] at h

theorem completeTake_node {n : NodeNo} {latched since : NodeReasons}
    (htake : s.take = some (.node n latched since false)) (hlist : .node n ∈ s.attention) :
    s.completeTake =
      { s.setNode n { s.node n with reasons := (s.node n).reasons.minus (latched.minus since) } with
        take := none
        attention := requeue s.attention (.node n) (!((s.node n).reasons.minus (latched.minus since)).isEmpty) } := by
  simp only [State.completeTake, htake]
  exact if_pos ⟨trivial, List.contains_iff_mem.2 hlist⟩

end CompleteTake

/-- R123: where a subject goes at the completion of its take. -/
theorem requeue_not (list : List Subject) (x : Subject) (empty : Bool) :
    requeue list x (!empty) = if empty then list.filter (· != x) else list.filter (· != x) ++ [x] := by
  cases empty <;> rfl

/-- Settles O47: the completion for each latch. -/
theorem takeCompletionRemovesTheLatchedReasons : Obligations.TakeCompletionRemovesTheLatchedReasons := by
  intro s a t latch hreading hclear htake leads
  have hleads {u : State} (hu : s.completeTake = { u with take := none }) : leads u :=
    exec_takeFieldCompletion hreading hclear hu
  refine ⟨fun hlatch => ?_, fun i g latched since gone hlatch => ⟨fun hgone => ?_, fun r hgone hlist hr => ?_⟩,
    fun n latched since gone hlatch => ⟨fun hgone => ?_, fun hgone hlist => ?_⟩⟩
  · subst hlatch
    exact hleads (by simp only [State.completeTake, htake])
  · subst hlatch
    exact hleads (completeTake_record_gone htake hgone)
  · subst hlatch hgone
    refine hleads ((completeTake_record htake hlist hr).trans ?_)
    rw [requeue_not]
    rfl
  · subst hlatch
    exact hleads (completeTake_node_gone htake hgone)
  · subst hlatch hgone
    refine hleads ((completeTake_node htake hlist).trans ?_)
    rw [requeue_not]
    rfl

/-- Settles O48: the count latched in either direction, and the count of later damage at the last byte. -/
theorem damagedCountReadKeepsLaterDamage : Obligations.DamagedCountReadKeepsLaterDamage := by
  refine ⟨?_, ?_⟩
  · intro s hready low high
    have hread : (latched s .damagedCount).readField .damagedCount = [low, high] := by
      change bytes16 (word16 s.line.damaged) = _
      rw [bytes16, lowByte_word16, highByte_word16]
    rw [exec_damagedCountReadLatch]
    cases hdirection : s.rowDirection with
    | ascending =>
      rw [latchRead_ready (.inr rfl) hready (by rw [hdirection, hread]; rfl)]
      rfl
    | descending =>
      rw [latchRead_ready (.inr rfl) hready (by rw [hdirection, hread]; rfl)]
      rfl
  · intro s a t d hreading hclear hlatch u
    have hcompleted : (if a.duringClear = true then s else completed s .damagedCount) = u := by
      rw [hclear]
      change s.completeDamaged = u
      rw [State.completeDamaged, hlatch]
    change Host.Outcome.next (s.completeRead .damagedCount) = _
    rw [completeRead_eq (.inr rfl) hreading, hcompleted]

/-! ## The resets (R118, R130, R154, R155) -/

theorem interrupted_phase (phase : PortPhase) : phase.interrupted = .idle ∨ phase.interrupted = .disregard none := by
  cases phase <;> simp [PortPhase.interrupted]

/-- Settles O51: the reset rows, and the end of the start-up clear. -/
theorem resetsRestoreResetValues : Obligations.ResetsRestoreResetValues := by
  intro s straps
  refine ⟨rfl, ⟨s.port.phase.interrupted, interrupted_phase _, rfl⟩,
    ⟨_, rfl, rfl, rfl, ?_, rfl, rfl, rfl, rfl, rfl, rfl, rfl⟩, fun hheld hclearing => ?_⟩
  · simp [State.irqAsserted]
  · change execStartUpClearCompletion s = _
    rw [execStartUpClearCompletion, unlessHeld_eq hheld, if_pos hclearing]
    rfl

end Sys2Proof.Proofs.ActingReads
end

section
/-! PROOFS. Accesses of the start-up clear (R155), and a run of bytes written from an address on (R134, R144, R145, R150, R151). -/

namespace Sys2Proof.Proofs.RegisterWrites

open Sys2Proof.Machine Sys2Proof.Laws
open Sys2Proof.Proofs.ActingReads (exec_takeFieldLatch exec_damagedCountReadLatch)

/-! ## A row that is the write of a field -/

/-- The row writes the field whole, whatever the state. -/
def WritesField (i : Instr) (f : Field) : Prop :=
  ∃ bytes : List Byte, bytes.length = f.length ∧ ∀ s : State, exec i s = .next (s.writeField f bytes)

/-- The fields that have a row of their own. -/
def rowFields : List Field :=
  [.commandCode, .cyclePeriod, .lineRate, .answerGap, .answerRange, .cycleControl, .eventRegister, .eventMask,
    .errorFlags, .interfaceControl, .loopLength, .crcEnablePair]

theorem genuine_of_rowFields {f : Field} (h : f ∈ rowFields) : Genuine f := by
  have hall : ∀ g ∈ rowFields, fieldAt g.base = g := by decide
  exact hall f h

/-- Each row of one field but the run of bytes writes a field that has a row of its own. -/
theorem writesField_of_writtenField {i : Instr} {f : Field} (h : writtenField i = some f)
    (hi : ∀ address bytes crc, i ≠ .registerWrite address bytes crc) : f ∈ rowFields ∧ WritesField i f := by
  cases i
  case registerWrite address bytes crc => exact absurd rfl (hi address bytes crc)
  all_goals cases h
  all_goals
    refine ⟨by decide, _, ?_, fun _ => rfl⟩
    rfl

/-! ## A run of bytes that is a whole field -/

section Whole

variable {s : State} {address : HostAddr} {bytes : List Byte} {crc : Byte}

theorem runStart_whole (d : Direction) (hbase : (fieldAt address).base = address)
    (hlength : bytes.length = (fieldAt address).length) :
    runStart d address bytes.length = (fieldAt address).first d := by
  cases d with
  | ascending => exact hbase.symm
  | descending => rw [runStart, Field.first, hlength, hbase]

theorem exec_registerWrite_whole (hbase : (fieldAt address).base = address)
    (hlength : bytes.length = (fieldAt address).length) :
    exec (.registerWrite address bytes crc) s =
      .next (s.hostWrite ((fieldAt address).first s.rowDirection) (orient s.rowDirection bytes) (some crc)) :=
  congrArg (fun start => Host.Outcome.next (s.hostWrite start (orient s.rowDirection bytes) (some crc)))
    (runStart_whole s.rowDirection hbase hlength)

/-- R144, R151: the host's CRC byte after a whole field matches, or none is in force. -/
theorem exec_registerWrite_good (hnext : s.FieldNext (fieldAt address) false) (hbase : (fieldAt address).base = address)
    (hlength : bytes.length = (fieldAt address).length)
    (hcrc : s.fieldCrcMatches (fieldAt address) bytes crc = true) :
    exec (.registerWrite address bytes crc) s =
      .next { rowEffect s (fieldAt address) bytes with
        port := s.portAfter (fieldAt address) (!s.accessInClear) (rowEffect s (fieldAt address) bytes) } := by
  rw [exec_registerWrite_whole hbase hlength, hostWrite_good (genuine_fieldAt address) hnext hlength]
  rintro c ⟨⟩
  exact hcrc

/-- R151: the host's CRC byte after a whole field fails. -/
theorem exec_registerWrite_bad (hnext : s.FieldNext (fieldAt address) false) (hbase : (fieldAt address).base = address)
    (hlength : bytes.length = (fieldAt address).length)
    (hcrc : s.fieldCrcMatches (fieldAt address) bytes crc = false) :
    TurnedAway s (.registerWrite address bytes crc) ((rowFlags s (fieldAt address)).flag .crcMismatch) :=
  ⟨fieldAt address, rfl, by
    rw [exec_registerWrite_whole hbase hlength, hostWrite_bad (genuine_fieldAt address) hnext hlength hcrc]⟩

theorem rowFlags_inClear {f : Field} (hclear : s.accessInClear = true) : rowFlags s f = s.flag .notReady := if_pos hclear

theorem rowEffect_inClear {f : Field} (hclear : s.accessInClear = true) : rowEffect s f bytes = s.flag .notReady :=
  if_pos hclear

end Whole

/-! ## The start-up clear (R155) -/

theorem exec_latch_inClear {s : State} {i : Instr} {f : Field}
    (hi : (i, f) ∈ ([(.takeFieldLatch, .takeField), (.damagedCountReadLatch, .damagedCount)] : List (Instr × Field)))
    (hnext : s.FieldNext f true) (hclear : s.accessInClear = true) :
    exec i s =
      .next { s with port :=
        { s.portLatched f 0 (List.replicate (f.length - 1) 0) with errors := s.port.errors.set .notReady } } := by
  simp only [List.mem_cons, Prod.mk.injEq, List.not_mem_nil, or_false] at hi
  obtain ⟨rfl, rfl⟩ | ⟨rfl, rfl⟩ := hi
  · rw [exec_takeFieldLatch, latchRead_inClear (.inl rfl) hnext hclear]
  · rw [exec_damagedCountReadLatch, latchRead_inClear (.inr rfl) hnext hclear]

theorem exec_completion_inClear {s : State} {i : Instr} {f : Field} {a : Access} {t : Transfer}
    (hi : (i, f) ∈ ([(.takeFieldCompletion, .takeField), (.damagedCountReadCompletion, .damagedCount)]
      : List (Instr × Field)))
    (hreading : s.Reading f a t) (hclear : a.duringClear = true) :
    exec i s = .next { s with port := s.portRead f a t s } := by
  have hf : f = .takeField ∨ f = .damagedCount := by
    simp only [List.mem_cons, Prod.mk.injEq, List.not_mem_nil, or_false] at hi
    exact hi.imp And.right And.right
  have hrow : exec i s = .next (s.completeRead f) := by
    simp only [List.mem_cons, Prod.mk.injEq, List.not_mem_nil, or_false] at hi
    obtain ⟨rfl, rfl⟩ | ⟨rfl, rfl⟩ := hi <;> rfl
  rw [hrow, completeRead_eq hf hreading]
  simp only [hclear, if_true]

/-- Settles O52: writes, runs of bytes and reads during the start-up clear. -/
theorem accessDuringTheClearIsNotReady : Obligations.AccessDuringTheClearIsNotReady := by
  intro s notReady flagged
  refine ⟨fun hclear => ⟨fun i f hf hnext hi => ?_, fun address bytes crc hnext hbase hlength => ⟨fun hcrc => ?_,
    fun hcrc => ?_⟩, fun i f hi hnext => ?_⟩, fun i f a t hi hreading hclear => ?_⟩
  · obtain ⟨hfield, bytes, hlength, hexec⟩ := writesField_of_writtenField hf hi
    exact turnedAway_inClear (genuine_of_rowFields hfield) hnext hclear hlength hf (hexec s)
  · refine ⟨fieldAt address, rfl, ?_⟩
    rw [exec_registerWrite_good hnext hbase hlength hcrc, rowEffect_inClear hclear, hclear]
    rfl
  · have haway := exec_registerWrite_bad hnext hbase hlength hcrc
    rw [rowFlags_inClear hclear] at haway
    exact haway
  · exact exec_latch_inClear hi hnext hclear
  · exact exec_completion_inClear hi hreading hclear

end Sys2Proof.Proofs.RegisterWrites
end

section
/-! PROOFS. The host serial port byte by byte (spec/09, R142 to R151, R153, R155): instruction phases, the start of a field, each data byte, and the CRC byte behind a field. -/

namespace Sys2Proof.Proofs.PortBytes

open Sys2Proof.Machine Sys2Proof.Laws

/-! ## Flags -/

section Flags

variable (s : State) (c : Bool)

theorem flagIf_notReady : s.flagIf c .notReady =
    { s with port := { s.port with errors := { s.port.errors with notReady := s.port.errors.notReady || c } } } := by
  cases c <;> simp [State.flagIf, State.flag, ErrorFlags.set]

theorem flagIf_partialField : s.flagIf c .partialField =
    { s with port := { s.port with errors :=
      { s.port.errors with partialField := s.port.errors.partialField || c } } } := by
  cases c <;> simp [State.flagIf, State.flag, ErrorFlags.set]

theorem flagIf_unknownAddress : s.flagIf c .unknownAddress =
    { s with port := { s.port with errors :=
      { s.port.errors with unknownAddress := s.port.errors.unknownAddress || c } } } := by
  cases c <;> simp [State.flagIf, State.flag, ErrorFlags.set]

theorem flagIf_readOnlyWrite : s.flagIf c .readOnlyWrite =
    { s with port := { s.port with errors :=
      { s.port.errors with readOnlyWrite := s.port.errors.readOnlyWrite || c } } } := by
  cases c <;> simp [State.flagIf, State.flag, ErrorFlags.set]

end Flags

/-! ## A byte in each phase -/

section Phases

variable {s : State}

theorem exec_instructionPhase_append {t : State} {sdi : List Byte} (h : exec (.instructionPhase sdi) s = .next t)
    (b : Byte) : exec (.instructionPhase (sdi ++ [b])) s = .next (t.clockByte b) := by
  have ht : sdi.foldl State.clockByte s.openFrame = t := Host.Outcome.next.inj h
  change Host.Outcome.next ((sdi ++ [b]).foldl State.clockByte s.openFrame) = _
  rw [List.foldl_append, ht]
  rfl

theorem exec_instructionPhase_one (s : State) (b : Byte) :
    exec (.instructionPhase [b]) s = .next (s.openFrame.clockByte b) := rfl

/-- With CSN low there is no frame to open. -/
theorem openFrame_open (h : s.port.phase ≠ .idle) : s.openFrame = s := by
  unfold State.openFrame
  split
  · next hidle => exact absurd hidle h
  · rfl

/-- R153: CSN falls, and the first instruction phase of the frame starts with the status of that moment. -/
theorem openFrame_idle (hphase : s.port.phase = .idle) (hheld : s.resetHeld = false) :
    s.openFrame = stand s (.instruction none s.statusBytes) [] s.port.crcOn := by
  rw [State.openFrame, hphase]
  exact if_neg (by simp [hheld])

/-- R154: in reset no access is taken. -/
theorem openFrame_held (hphase : s.port.phase = .idle) (hheld : s.resetHeld = true) :
    s.openFrame = stand s (.disregard none) [] s.port.frameCrc := by
  rw [State.openFrame, hphase]
  exact if_pos hheld

theorem clockByte_disregard {access : Option Access} (h : s.port.phase = .disregard access) (b : Byte) :
    s.clockByte b = s.emit [.highZ] := by
  rw [State.clockByte, h]

theorem clockByte_between (h : s.port.phase = .between) (b : Byte) : s.clockByte b = s.firstByte s.statusBytes b := by
  rw [State.clockByte, h]

theorem clockByte_first {st : StatusBytes} (h : s.port.phase = .instruction none st) (b : Byte) :
    s.clockByte b = s.firstByte st b := by
  rw [State.clockByte, h]

theorem clockByte_second {first : Byte} {st : StatusBytes} (h : s.port.phase = .instruction (some first) st)
    (b : Byte) :
    s.clockByte b =
      (s.emit [s.statusOut first (.byte st.second)]).instructionEnd first b (st.first.getLsbD 0) := by
  rw [State.clockByte, h]

theorem clockByte_hostCrc {first second : Byte} {d : Bool} (h : s.port.phase = .hostCrc first second d) (b : Byte) :
    s.clockByte b = (s.emit [.highZ]).checkInstruction first second d b := by
  rw [State.clockByte, h]

theorem clockByte_data {a : Access} (h : s.port.phase = .data a) (b : Byte) : s.clockByte b = s.dataByte a b := by
  rw [State.clockByte, h]

theorem clockByte_fieldCrc {a : Access} {t : Transfer} (h : s.port.phase = .fieldCrc a t) (b : Byte) :
    s.clockByte b = s.fieldCrcByte a t b := by
  rw [State.clockByte, h]

end Phases

/-! ## The instruction phase (R142, R151, R153) -/

/-- R142, R153: the first byte, wherever its instruction phase starts. -/
theorem exec_first {s : State} {first : Byte} {st : StatusBytes} {crcOn : Bool} {before : List Sdo}
    (h : (s.port.phase = .idle ∧ s.resetHeld = false ∧ st = s.statusBytes ∧ crcOn = s.port.crcOn ∧ before = [])
      ∨ (s.port.phase = .between ∧ st = s.statusBytes ∧ crcOn = s.port.frameCrc ∧ before = s.port.sdo)
      ∨ (s.port.phase = .instruction none st ∧ crcOn = s.port.frameCrc ∧ before = s.port.sdo)) :
    exec (.instructionPhase [first]) s =
      .next (stand s (.instruction (some first) st) (before ++ [s.statusOut first (.status st.first)]) crcOn) := by
  rw [exec_instructionPhase_one]
  obtain ⟨hphase, hheld, rfl, rfl, rfl⟩ | ⟨hphase, rfl, rfl, rfl⟩ | ⟨hphase, rfl, rfl⟩ := h
  · rw [openFrame_idle hphase hheld, clockByte_first rfl]
    rfl
  · rw [openFrame_open (by simp [hphase]), clockByte_between hphase]
    rfl
  · rw [openFrame_open (by simp [hphase]), clockByte_first hphase]
    rfl

theorem sharedAddr_eq (a : HostAddr) : sharedAddr a = decide (a ≤ 0x000F) := rfl

section InstructionEnd

variable {s : State} {first second : Byte} {d : Bool}

/-- R142: an access that the part does not take is ignored whole in streaming mode. -/
theorem instructionEnd_ignored (htaken : (s.newAccess first second d).taken = false)
    (hmode : (s.newAccess first second d).mode = .streaming) :
    s.instructionEnd first second d = s.setPhase (.disregard none) := by
  rw [State.instructionEnd, if_pos (by simp [htaken, hmode])]

/-- R151: without a host CRC byte the data phase follows. -/
theorem instructionEnd_data
    (htaken : (s.newAccess first second d).taken = true ∨ (s.newAccess first second d).mode = .singleField)
    (hcrc : s.port.frameCrc = false ∨ (s.newAccess first second d).writesPair = true) :
    s.instructionEnd first second d = s.beginData (s.newAccess first second d) := by
  rw [State.instructionEnd, if_neg (by obtain h | h := htaken <;> simp [h]),
    if_neg (by obtain h | h := hcrc <;> simp [h])]

theorem instructionEnd_crc
    (htaken : (s.newAccess first second d).taken = true ∨ (s.newAccess first second d).mode = .singleField)
    (hcrc : s.port.frameCrc = true) (hpair : (s.newAccess first second d).writesPair = false) :
    s.instructionEnd first second d = s.setPhase (.hostCrc first second d) := by
  rw [State.instructionEnd, if_neg (by obtain h | h := htaken <;> simp [h]), if_pos (by simp [hcrc, hpair])]

theorem checkInstruction_good {crc : Byte}
    (h : (s.newAccess first second d).taken = false ∨ crc8 instructionSeed [first, second] = crc) :
    s.checkInstruction first second d crc = s.beginData (s.newAccess first second d) := by
  rw [State.checkInstruction, if_pos (by obtain h | h := h <;> simp [h])]

theorem checkInstruction_bad {crc : Byte} (htaken : (s.newAccess first second d).taken = true)
    (hcrc : crc8 instructionSeed [first, second] ≠ crc) :
    s.checkInstruction first second d crc =
      ((s.flagIf (s.newAccess first second d).turnedAway .notReady).flag .crcMismatch).setPhase
        (.disregard (some (s.newAccess first second d))) := by
  rw [State.checkInstruction, if_neg (by simp [htaken, hcrc])]

theorem beginData_eq (s : State) (a : Access) :
    s.beginData a =
      { s with port := { s.port with
        phase := .data a
        errors := { s.port.errors with notReady := s.port.errors.notReady || a.turnedAway } } } := by
  rw [State.beginData, flagIf_notReady]
  rfl

end InstructionEnd

/-! ## The start of a field (R144, R145, R155) -/

theorem isUnknown_fieldAt (address : HostAddr) :
    (fieldAt address).isUnknown = (fieldAt address == .unknown address) := by
  by_cases hrecord : 0x0400 ≤ address.toNat ∧ address.toNat < 0x1C00
  · rw [fieldAt_record hrecord]
    rfl
  · rw [fieldAt_low hrecord]
    cases hfind : registerFields.find? (·.holds address) with
    | none => exact (beq_self_eq_true (Field.unknown address)).symm
    | some f =>
      have hregister : ∀ g ∈ registerFields, g.isUnknown = false := by decide
      have hknown := hregister f (List.mem_of_find?_eq_some hfind)
      have hne : f ≠ .unknown address := fun heq => by simp [heq, Field.isUnknown] at hknown
      exact hknown.trans (beq_eq_false_iff_ne.2 hne).symm

/-- R144, R145, R155: what the start of a field sets and latches. -/
theorem startEffects_eq {s : State} {a : Access} (htaken : a.taken = true) :
    s.startEffects a =
      { s with
        take := if (a.isRead && !a.inMiddle && !a.duringClear) && fieldAt a.addr == .takeField then s.latchTake.take
          else s.take
        line := if (a.isRead && !a.inMiddle && !a.duringClear) && fieldAt a.addr == .damagedCount then
            { s.line with damagedLatch := some ⟨s.line.damaged, 0⟩ }
          else s.line
        port := { s.port with errors :=
          if a.duringClear then
            { s.port.errors with
              notReady := s.port.errors.notReady || !(a.isRead && fieldAt a.addr == .summary) }
          else
            { s.port.errors with
              partialField := s.port.errors.partialField || a.inMiddle
              unknownAddress := s.port.errors.unknownAddress || fieldAt a.addr == .unknown a.addr } } } := by
  rw [State.startEffects]
  simp only [htaken, Bool.not_true, Bool.false_eq_true, if_false]
  cases hclear : a.duringClear with
  | true =>
    simp only [if_true, Bool.not_true, Bool.and_false, Bool.false_and, Bool.false_eq_true, if_false]
    exact flagIf_notReady s _
  | false =>
    simp only [Bool.false_eq_true, if_false, Bool.not_false, Bool.and_true, flagIf_partialField, flagIf_unknownAddress,
      isUnknown_fieldAt]
    cases hread : a.isRead <;> cases hmiddle : a.inMiddle
    case true.false =>
      simp only [Bool.not_true, Bool.or_self, Bool.false_eq_true, if_false, Bool.not_false, Bool.and_self,
        Bool.true_and]
      split
      · next hfield => rw [hfield]; rfl
      · next hfield => rw [hfield]; rfl
      · next htake hcount =>
        rw [beq_eq_false_iff_ne.2 fun h => htake h, beq_eq_false_iff_ne.2 fun h => hcount h]
        rfl
    all_goals simp

/-- The bytes that a transfer begun by an access latches, where the field's start has had its effects. -/
theorem latchBytes_eq {s : State} {a : Access} (htaken : a.taken = true) :
    (s.startEffects a).latchBytes a =
      if !a.isRead then []
      else if a.duringClear then
        if fieldAt a.addr = .summary then [s.summary]
        else List.replicate (bytesToEnd (fieldAt a.addr) a.direction a.addr) 0
      else if a.inMiddle then List.replicate (bytesToEnd (fieldAt a.addr) a.direction a.addr) 0
      else orient a.direction ((s.startEffects a).readField (fieldAt a.addr)) := by
  rw [State.latchBytes]
  cases hread : a.isRead with
  | false => rfl
  | true =>
    by_cases hsummary : a.duringClear = true ∧ fieldAt a.addr = .summary
    · have hnothing : s.startEffects a = s := by
        rw [State.startEffects]
        simp only [htaken, hsummary, hread, Bool.not_true, beq_self_eq_true, Bool.and_self, State.flagIf,
          Bool.false_eq_true,
          if_false, if_true]
      rw [hnothing]
    · cases hclear : a.duringClear with
      | false => rfl
      | true =>
        have hfield : fieldAt a.addr ≠ .summary := fun h => hsummary ⟨hclear, h⟩
        simp only [if_neg hfield]

theorem readField_setPhase (s : State) (ph : PortPhase) (f : Field) : (s.setPhase ph).readField f = s.readField f := by
  cases f <;> rfl

/-! ## The bytes of a field, wherever the port stands -/

section Stand

variable (s : State) (ph : PortPhase) (sd : List Sdo) (fc : Bool)

theorem lastByte_stand (a : Access) (t : Transfer) :
    (stand s ph sd fc).lastByte a t = stand (s.lastByte a t) ph sd fc := by
  unfold State.lastByte
  rw [stand_ite, stand_ite, flagIf_stand]
  split
  · rfl
  · split
    · split
      · exact completeTake_stand s ph sd fc
      · exact completeDamaged_stand s ph sd fc
      · rfl
    · rfl

theorem frameCrc_lastByte (a : Access) (t : Transfer) : (s.lastByte a t).port.frameCrc = s.port.frameCrc := by
  have h := lastByte_stand s s.port.phase s.port.sdo s.port.frameCrc a t
  exact congrArg (·.port.frameCrc) h

/-- The last byte of a field moves the port alike from wherever it stands. -/
theorem finishField_stand (a : Access) (t : Transfer) (ph' : PortPhase) :
    (stand s ph sd fc).finishField a t = (stand s ph' sd fc).finishField a t := by
  unfold State.finishField
  dsimp only
  rw [lastByte_stand, lastByte_stand, applyAndGoOn_stand _ ph sd fc a t ph']
  rfl

theorem cutField_stand (a : Access) (ph' : PortPhase) :
    (stand s ph sd fc).cutField a = (stand s ph' sd fc).cutField a := by
  unfold State.cutField
  rw [flagIf_stand, flagIf_stand]
  rfl

theorem transferByte_stand (a : Access) (t : Transfer) (x : Option Transfer) (b : Byte) (ph' : PortPhase) :
    (stand s ph sd fc).transferByte a t b = (stand s ph' sd fc).transferByte (withTransfer a x) t b :=
  if_congr Iff.rfl (finishField_stand s ph _ fc (withTransfer a.advance none) (t.cross a.isRead b) ph')
    (if_congr Iff.rfl (cutField_stand s ph _ fc (withTransfer a.advance none) ph') rfl)

end Stand

/-! ## A data byte (R142, R144 to R147) -/

/-- R147: the loop length returns the address to the start behind the next byte. -/
def Loops (a : Access) : Prop := a.mode = .streaming ∧ a.loop ≠ 0 ∧ (a.count + 1) % a.loop = 0

theorem loops_iff (a : Access) : a.loopsAt (a.count + 1) = true ↔ Loops a := by
  simp [Access.loopsAt, Loops, and_assoc]

/-- R146, R147: the access behind one data byte. -/
theorem advance_eq (a : Access) :
    withTransfer a.advance none =
      { a with
        count := a.count + 1, transfer := none
        addr :=
          if a.mode = .streaming ∧ a.loop ≠ 0 ∧ (a.count + 1) % a.loop = 0 then a.start
          else match a.direction with
            | .ascending => a.addr + 1
            | .descending => if a.addr = 0 then 0x1BFF else a.addr - 1 } := by
  have haddr : a.advance.addr =
      if a.mode = .streaming ∧ a.loop ≠ 0 ∧ (a.count + 1) % a.loop = 0 then a.start else nextAddr a.direction a.addr :=
    if_congr (loops_iff a) rfl rfl
  rw [withTransfer, haddr]
  rfl

/-- R147: at the end of an access that the part took, the loop length becomes 0 unless it is kept. -/
theorem closeAccess_eq (s : State) (a : Access) :
    s.closeAccess a =
      { s with port := { s.port with
        loopLength := if !a.taken || (a.keepLoop || a.loopWritten) then s.port.loopLength else 0 } } := by
  cases htaken : a.taken <;> cases hkeep : a.keepLoop <;> cases hwritten : a.loopWritten <;>
    simp [State.closeAccess, State.setPort, htaken, hkeep, hwritten]

section DataByte

variable {s : State} {a : Access} {t : Transfer} {b : Byte}

theorem not_ceases (hshared : a.sharedOnly = true → sharedAddr a.addr = true) :
    ¬ (a.taken && a.sharedOnly && !sharedAddr a.addr) = true := by
  intro h
  simp only [Bool.and_eq_true, Bool.not_eq_true'] at h
  obtain ⟨⟨-, honly⟩, houtside⟩ := h
  rw [hshared honly] at houtside
  exact absurd houtside (by decide)

/-- R142: a shared write ceases at the first byte outside the shared block. -/
theorem dataByte_ceases (htaken : a.taken = true) (honly : a.sharedOnly = true) (houtside : sharedAddr a.addr = false) :
    s.dataByte a b = ((s.closeAccess a).setPhase (.disregard none)).emit [.highZ] := by
  rw [State.dataByte, if_pos (by simp [htaken, honly, houtside])]

theorem dataByte_some (hshared : a.sharedOnly = true → sharedAddr a.addr = true) (ht : a.transfer = some t) :
    s.dataByte a b = s.transferByte a t b := by
  rw [State.dataByte, if_neg (not_ceases hshared), ht]

theorem dataByte_none (hshared : a.sharedOnly = true → sharedAddr a.addr = true) (ht : a.transfer = none) :
    s.dataByte a b = (s.startEffects a).transferByte a ((s.startEffects a).newTransfer a) b := by
  rw [State.dataByte, if_neg (not_ceases hshared), ht]

/-- R144: the first byte of a field is one of a field that has begun. -/
theorem dataByte_begins (hshared : a.sharedOnly = true → sharedAddr a.addr = true) (ht : a.transfer = none) :
    s.dataByte a b =
      ((s.startEffects a).setPhase (.data (withTransfer a (some ((s.startEffects a).newTransfer a))))).clockByte b := by
  rw [dataByte_none hshared ht, clockByte_data rfl,
    dataByte_some (a := withTransfer a (some ((s.startEffects a).newTransfer a))) hshared rfl]
  exact transferByte_stand (s.startEffects a) (s.startEffects a).port.phase (s.startEffects a).port.sdo
    (s.startEffects a).port.frameCrc a _ _ b _

/-- What SDO carries in a byte of the data phase. -/
def dataOut (a : Access) (t : Transfer) : Sdo := if a.isRead && a.taken then .byte (t.latch.headD 0) else .highZ

theorem transferByte_inside (hleft : 2 ≤ t.left) (hloops : ¬ Loops a) :
    s.transferByte a t b =
      (s.emit [dataOut a t]).setPhase (.data (withTransfer a.advance (some (t.cross a.isRead b)))) :=
  (if_neg (show ¬ t.left - 1 = 0 by omega)).trans (if_neg (mt (loops_iff a).1 hloops))

theorem transferByte_cut (hleft : 2 ≤ t.left) (hloops : Loops a) :
    s.transferByte a t b = (s.emit [dataOut a t]).cutField (withTransfer a.advance none) :=
  (if_neg (show ¬ t.left - 1 = 0 by omega)).trans (if_pos ((loops_iff a).2 hloops))

theorem transferByte_last (hleft : t.left ≤ 1) :
    s.transferByte a t b =
      (s.emit [dataOut a t]).finishField (withTransfer a.advance none) (t.cross a.isRead b) :=
  if_pos (show t.left - 1 = 0 by omega)

theorem cutField_eq (htaken : a.taken = true) :
    s.cutField a =
      { s with
        take := none
        line := { s.line with damagedLatch := none }
        port := { s.port with
          phase := .data { a with transfer := none }
          errors := { s.port.errors with partialField := s.port.errors.partialField || !a.duringClear } } } := by
  rw [State.cutField, flagIf_partialField, htaken, Bool.true_and]
  rfl

/-- R8, R123, R144, R145, R150: what the last byte of a field does. -/
theorem lastByte_eq (htaken : a.taken = true) :
    s.lastByte a t =
      if a.duringClear then s
      else if a.isRead then
        (if t.middle then s
          else if t.field = .takeField then s.completeTake
          else if t.field = .damagedCount then s.completeDamaged
          else s)
      else
        { s with port := { s.port with errors := { s.port.errors with
          readOnlyWrite := s.port.errors.readOnlyWrite
            || t.field.readOnly || (t.field == .crcEnablePair && !a.atPair) } } } := by
  rw [Bool.or_assoc]
  cases hread : a.isRead with
  | false =>
    rw [lastByte_write s a t hread, htaken]
    cases a.duringClear with
    | true => rfl
    | false => exact flagIf_readOnlyWrite s _
  | true =>
    cases hmiddle : t.middle with
    | true => simp [State.lastByte, htaken, hread, hmiddle]
    | false =>
      rw [lastByte_read htaken hread hmiddle]
      cases a.duringClear with
      | true => rfl
      | false =>
        simp only [Bool.false_eq_true, if_false, if_true]
        split
        · next hfield => rw [hfield]; rfl
        · next hfield => rw [hfield]; rfl
        · next htake hcount => rw [if_neg fun h => htake h, if_neg fun h => hcount h]

/-- R144, R151: behind the last byte the CRC byte is awaited, or the field is applied. -/
theorem finishField_eq (s : State) (a : Access) (t : Transfer) :
    s.finishField a t =
      if s.port.frameCrc && !a.atPair then (s.lastByte a t).setPhase (.fieldCrc a t)
      else (s.lastByte a t).applyAndGoOn a t := rfl

end DataByte

/-! ## Behind a field (R144, R148, R150, R151) -/

section Behind

variable {s : State} {a : Access} {t : Transfer}

theorem byteOf_zero (bytes : List Byte) : byteOf bytes 0 = bytes.headD 0 := by cases bytes <;> rfl

theorem applies_eq (htaken : a.taken = true) : a.applies t = (!a.isRead && !a.duringClear && !t.middle) := by
  rw [Access.applies, htaken, Bool.and_true]

/-- R144, R150: the application of a field, and the place behind it. -/
theorem applyAndGoOn_eq (s : State) (a : Access) (t : Transfer) :
    s.applyAndGoOn a t =
      { s.applyTransfer a t with port := (s.applyTransfer a t).portBehind (a.noteApplied t) false } :=
  afterField_eq _ _

theorem applyTransfer_eq (s : State) (a : Access) (t : Transfer) :
    s.applyTransfer a t =
      if a.applies t then
        (if a.atPair && t.field == .crcEnablePair then s.writeCrcEnablePair (t.crossed.headD 0)
          else s.applyField t.field (orient a.direction t.crossed))
      else s := by
  rw [State.applyTransfer, byteOf_zero]
  rfl

/-- An access that the part does not take applies nothing. -/
theorem applyAndGoOn_ignored (htaken : a.taken = false) : s.applyAndGoOn a t = s.afterField a := by
  have happlies : a.applies t = false := by simp [Access.applies, htaken]
  rw [State.applyAndGoOn, State.applyTransfer, Access.noteApplied, happlies]
  simp

/-- R148: behind a field of another part in single-field mode an instruction phase starts. -/
theorem afterField_ignored (htaken : a.taken = false) (hmode : a.mode = .singleField)
    (hreset : s.port.softReset = false) :
    s.afterField a = s.setPhase .between := by
  rw [State.afterField, if_neg (by simp [hreset]), hmode, State.closeAccess, htaken]
  rfl

/-- R148: the CRC byte behind a field of another part. -/
theorem clockByte_ignoredCrc (hphase : s.port.phase = .fieldCrc a t) (htaken : a.taken = false)
    (hmode : a.mode = .singleField) (hreset : s.port.softReset = false) (sdi : Byte) :
    s.clockByte sdi = { s with port := { s.port with phase := .between, sdo := s.port.sdo ++ [.highZ] } } := by
  have hbehind : (s.emit [.highZ]).afterField a = (s.emit [.highZ]).setPhase .between :=
    afterField_ignored (s := s.emit [.highZ]) htaken hmode hreset
  rw [clockByte_fieldCrc hphase, State.fieldCrcByte, htaken, applyAndGoOn_ignored htaken]
  change (if _ then (s.emit [.highZ]).afterField a else if _ then (s.emit [.highZ]).afterField a
    else (s.emit [.highZ]).afterField a) = _
  rw [hbehind, ite_self, ite_self]
  rfl

/-- What a data byte of another part's access does, in the transfer that it goes on with or begins. -/
theorem transferByte_ignored (htaken : a.taken = false) (hmode : a.mode = .singleField)
    (hreset : s.port.softReset = false) (t : Transfer) (sdi : Byte) :
    s.transferByte a t sdi =
      { s with port := { s.port with
        sdo := s.port.sdo ++ [.highZ]
        phase :=
          if 2 ≤ t.left then .data (withTransfer a.advance (some (t.cross a.isRead sdi)))
          else if s.port.frameCrc && !a.atPair then
            .fieldCrc (withTransfer a.advance none) (t.cross a.isRead sdi)
          else .between } } := by
  have hout : dataOut a t = .highZ := by rw [dataOut, htaken, Bool.and_false]; rfl
  by_cases hleft : 2 ≤ t.left
  · rw [transferByte_inside hleft fun h => by simp [Loops, hmode] at h, hout, if_pos hleft]
    rfl
  · have hlast (u : State) : u.lastByte (withTransfer a.advance none) (t.cross a.isRead sdi) = u :=
      if_pos (show (!a.taken || a.duringClear) = true by simp [htaken])
    rw [transferByte_last (by omega), hout, finishField_eq, hlast, if_neg hleft,
      applyAndGoOn_ignored (a := withTransfer a.advance none) htaken,
      afterField_ignored (s := s.emit [.highZ]) (a := withTransfer a.advance none) htaken hmode hreset]
    change (if (s.port.frameCrc && !a.atPair) = true then _ else _) = _
    by_cases hcrc : (s.port.frameCrc && !a.atPair) = true
    · rw [if_pos hcrc, if_pos hcrc]
      rfl
    · rw [if_neg hcrc, if_neg hcrc]
      rfl

end Behind

/-- Settles O49: each byte by the equation of its phase. -/
theorem instructionPhaseOpensAnAccess : Obligations.InstructionPhaseOpensAnAccess := by
  refine ⟨fun s t sdi b h => exec_instructionPhase_append h b, ?_, ?_, ?_, ?_, ?_, ?_, ?_, ?_, ?_, ?_, ?_⟩
  · intro s hphase falls
    refine ⟨fun hheld => ?_, fun hheld => ?_⟩
    · exact congrArg Host.Outcome.next (openFrame_held hphase hheld)
    · rw [← statusBytes_eq]
      exact congrArg Host.Outcome.next (openFrame_idle hphase hheld)
  · intro s access sdi hphase
    exact clockByte_disregard hphase sdi
  · intro s first st crcOn before now h own
    have hnow : now = s.statusBytes := (statusBytes_eq s).symm
    rw [hnow] at h
    exact exec_first h
  · intro s first second inClear address isRead own shared pair access away e
    refine ⟨fun st hphase hclear => ?_, fun hphase crc => ?_⟩
    · intro opened
      have hbyte : exec (.instructionPhase [second]) s =
          .next ((s.emit [s.statusOut first (.byte st.second)]).instructionEnd first second inClear) := by
        rw [exec_instructionPhase_one, openFrame_open (by simp [hphase]), clockByte_second hphase, ← hclear]
      refine ⟨fun htaken hmode => ?_, fun htaken => ⟨fun hcrc => ?_, fun hcrc hpair => ?_⟩⟩
      · exact hbyte.trans (congrArg Host.Outcome.next (instructionEnd_ignored
        (s := s.emit [s.statusOut first (.byte st.second)]) htaken hmode))
      · exact hbyte.trans (congrArg Host.Outcome.next ((instructionEnd_data
        (s := s.emit [s.statusOut first (.byte st.second)]) htaken hcrc).trans (beginData_eq _ _)))
      · exact hbyte.trans (congrArg Host.Outcome.next (instructionEnd_crc
        (s := s.emit [s.statusOut first (.byte st.second)]) htaken hcrc hpair))
    · intro opened
      have hbyte : exec (.instructionPhase [crc]) s =
          .next ((s.emit [.highZ]).checkInstruction first second inClear crc) := by
        rw [exec_instructionPhase_one, openFrame_open (by simp [hphase]), clockByte_hostCrc hphase]
      refine ⟨fun hgood => ?_, fun htaken hcrc => ?_⟩
      · exact hbyte.trans (congrArg Host.Outcome.next ((checkInstruction_good (s := s.emit [.highZ])
          hgood).trans (beginData_eq _ _)))
      · refine hbyte.trans (congrArg Host.Outcome.next ((checkInstruction_bad (s := s.emit [.highZ])
          htaken hcrc).trans ?_))
        rw [flagIf_notReady]
        rfl
  · intro s a sdi hphase htaken honly houtside
    rw [clockByte_data hphase, dataByte_ceases htaken honly houtside, closeAccess_eq, htaken]
    rfl
  · intro s a sdi hphase htaken hnone hshared f middle left e errors acts begun latch transfer
    rw [clockByte_data hphase, dataByte_begins hshared hnone]
    have hbegun : s.startEffects a = begun := startEffects_eq htaken
    have htransfer : (s.startEffects a).newTransfer a = transfer := by
      rw [State.newTransfer, latchBytes_eq htaken, hbegun]
      rfl
    rw [htransfer, hbegun]
    rfl
  · intro s a t sdi hphase htaken ht hshared out loops t' a' sent
    have hsent : s.emit [dataOut a t] = sent := by
      rw [dataOut, htaken, Bool.and_true]
      rfl
    have ha' : withTransfer a.advance none = a' := advance_eq a
    have hbyte : s.clockByte sdi = s.transferByte a t sdi := by rw [clockByte_data hphase, dataByte_some hshared ht]
    rw [hbyte]
    refine ⟨fun hleft hloops => ?_, fun hleft hloops => ?_, ?_⟩
    · rw [transferByte_inside hleft hloops, hsent, ← ha']
      rfl
    · rw [transferByte_cut hleft hloops, hsent, ha']
      exact cutField_eq (s := sent) (a := a') htaken
    · intro hleft ended
      have hended : sent.lastByte a' t' = ended := lastByte_eq (s := sent) (a := a') (t := t') htaken
      rw [transferByte_last (by omega), hsent, ha', finishField_eq]
      change (if _ then (sent.lastByte a' t').setPhase _ else (sent.lastByte a' t').applyAndGoOn a' t') = _
      rw [hended]
      rfl
  · intro s a t sdi hphase htaken crc sent behind
    have hcrc : t.crc = crc := rfl
    rw [clockByte_fieldCrc hphase, State.fieldCrcByte, htaken, hcrc]
    refine ⟨fun hread => ?_, fun hread hgood => ?_, fun hread hbad => ?_⟩
    · rw [if_pos hread, afterField_eq]
      rfl
    · rw [if_neg (by simp [hread]), if_pos hgood.symm]
      rfl
    · rw [if_neg (by simp [hread]), if_neg (Ne.symm hbad), afterField_eq]
      rfl
  · intro s a t htaken applies bytes applied a'
    have happlies : a.applies t = applies := applies_eq htaken
    have happlied : s.applyTransfer a t = applied := by
      rw [applyTransfer_eq, happlies]
      rfl
    rw [applyAndGoOn_eq, happlied, Access.noteApplied, happlies]
  · intro s a sdi hphase htaken hmode hreset f left a'
    have hloops : ¬ (a.mode = .streaming ∧ a.loop ≠ 0 ∧ (a.count + 1) % a.loop = 0) := fun h => by simp [hmode] at h
    have ha' : withTransfer a.advance none = a' :=
      (advance_eq a).trans (congrArg
        (fun addr => ({ a with count := a.count + 1, transfer := none, addr := addr } : Access)) (if_neg hloops))
    have hshared : ¬ (a.taken && a.sharedOnly && !sharedAddr a.addr) = true := by simp [htaken]
    have hbyte (t : Transfer) (ht : s.dataByte a sdi = s.transferByte a t sdi) (hleft : t.left = left) :
        ∃ u : Transfer, u.left = left - 1 ∧
          s.clockByte sdi =
            { s with port := { s.port with
              sdo := s.port.sdo ++ [.highZ]
              phase :=
                if 2 ≤ left then .data { a' with transfer := some u }
                else if s.port.frameCrc && !a.atPair then .fieldCrc a' u
                else .between } } := by
      refine ⟨t.cross a.isRead sdi, congrArg (· - 1) hleft, ?_⟩
      rw [clockByte_data hphase, ht, transferByte_ignored htaken hmode hreset, hleft, ← ha']
      rfl
    cases htransfer : a.transfer with
    | some t =>
      refine hbyte t ?_ (by simp only [left, htransfer])
      rw [State.dataByte, if_neg hshared, htransfer]
    | none =>
      have hnothing : s.startEffects a = s := if_pos (by simp [htaken])
      refine hbyte (s.newTransfer a) ?_ (by simp only [left, htransfer]; rfl)
      rw [State.dataByte, if_neg hshared, htransfer]
      simp only [hnothing]
  · intro s a t sdi hphase htaken hmode hreset
    exact clockByte_ignoredCrc hphase htaken hmode hreset sdi

end Sys2Proof.Proofs.PortBytes
end

section
/-! PROOFS. CSN rises (spec/09, R143, R145, R147, R148, R154): the flags, the end of an access, and the soft reset that was requested. -/

namespace Sys2Proof.Proofs.FrameEnd

open Sys2Proof.Machine Sys2Proof.Laws
open Sys2Proof.Proofs.PortBytes (closeAccess_eq flagIf_partialField)

section Parts

variable {s : State}

/-- The state with BIT COUNT set where it is to be. -/
def withBits (s : State) (bits : Bool) : State :=
  { s with port := { s.port with errors := { s.port.errors with bitCount := s.port.errors.bitCount || bits } } }

theorem flagIf_bitCount (s : State) (c : Bool) : s.flagIf c .bitCount = withBits s c := by
  cases c <;> simp [State.flagIf, State.flag, ErrorFlags.set, withBits]

/-- The access that CSN rising ends, where one is in progress. -/
def openAccess : PortPhase → Option Access
  | .data a => some a
  | .fieldCrc a _ => some a
  | .disregard access => access
  | _ => none

theorem endAccess_some {a : Access} (h : openAccess s.port.phase = some a) : s.endAccess = s.closeAccess a := by
  rw [State.endAccess]
  cases hphase : s.port.phase with
  | data b => rw [hphase] at h; cases h; rfl
  | fieldCrc b t => rw [hphase] at h; cases h; rfl
  | disregard access => rw [hphase] at h; cases h; rfl
  | _ => rw [hphase] at h; cases h

theorem endAccess_none (h : openAccess s.port.phase = none) : s.endAccess = s := by
  rw [State.endAccess]
  cases hphase : s.port.phase with
  | data b => rw [hphase] at h; cases h
  | fieldCrc b t => rw [hphase] at h; cases h
  | disregard access => rw [hphase] at h; cases h; rfl
  | _ => rfl

/-- R143: the bits of a first instruction byte that is cut, compared with the part's chip code. -/
theorem chipBitsMatch_eq (s : State) (tail : List Bool) :
    s.chipBitsMatch tail =
      decide ((∀ b ∈ tail[1]?, b = s.port.chipCode.getLsbD 1) ∧ ∀ b ∈ tail[2]?, b = s.port.chipCode.getLsbD 0) := by
  match tail with
  | [] => simp [State.chipBitsMatch]
  | [_] => simp [State.chipBitsMatch]
  | [_, b1] => simp [State.chipBitsMatch, Bool.beq_eq_decide_eq]
  | _ :: b1 :: b0 :: _ => simp [State.chipBitsMatch, Bool.beq_eq_decide_eq]

/-- The state at the end of a frame that sets BIT COUNT or not and cuts no field. -/
def frameEnded (s : State) (bits : Bool) (loopLength : Byte) : State :=
  { s with port := { s.port with
    phase := .idle
    loopLength := loopLength
    errors := { s.port.errors with bitCount := s.port.errors.bitCount || bits } } }

/-- R147: the loop length at the end of an access. -/
def loopLeft (s : State) (a : Access) : Byte :=
  if a.taken = true ∧ a.keepLoop = false ∧ a.loopWritten = false then 0 else s.port.loopLength

/-- R145: the state in which the end of the frame has cut a field, if it does. -/
def fieldCutOff (s : State) (cut : Bool) : State :=
  { s with
    take := if cut then none else s.take
    line := { s.line with damagedLatch := if cut then none else s.line.damagedLatch }
    port := { s.port with errors := { s.port.errors with partialField := s.port.errors.partialField || cut } } }

theorem cutAtEnd_eq (s : State) (cut : Bool) : s.cutAtEnd cut = fieldCutOff s cut := by
  cases cut with
  | true =>
    rw [fieldCutOff, Bool.or_true]
    rfl
  | false =>
    rw [fieldCutOff, Bool.or_false]
    rfl

/-- The state as CSN rises, before the access ends. -/
def cutOff (s : State) (tail : List Bool) : State := fieldCutOff (withBits s (s.bitsCount tail)) s.fieldCut

theorem closeFrame_eq (hreset : s.port.softReset = false) (tail : List Bool) :
    s.closeFrame tail = (cutOff s tail).endAccess.setPhase .idle := by
  rw [State.closeFrame, cutAtEnd_eq, flagIf_bitCount]
  exact if_neg (by simp [hreset])

/-- R143, R147: an access is in progress: it ends, with its term of the loop length. -/
theorem closeFrame_access (hreset : s.port.softReset = false) {a : Access} (ha : openAccess s.port.phase = some a)
    (tail : List Bool) :
    s.closeFrame tail = fieldCutOff (frameEnded s (s.bitsCount tail) (loopLeft s a)) s.fieldCut := by
  rw [closeFrame_eq hreset, endAccess_some (s := cutOff s tail) ha, closeAccess_idle]
  rfl

theorem cutOff_uncut (hcut : s.fieldCut = false) (tail : List Bool) :
    cutOff s tail = withBits s (s.bitsCount tail) := by
  rw [cutOff, hcut, ← cutAtEnd_eq]
  rfl

theorem closeFrame_uncut (hreset : s.port.softReset = false) {a : Access} (ha : openAccess s.port.phase = some a)
    (hcut : s.fieldCut = false) (tail : List Bool) :
    s.closeFrame tail = frameEnded s (s.bitsCount tail) (loopLeft s a) := by
  rw [closeFrame_access hreset ha, hcut, ← cutAtEnd_eq]
  rfl

/-- R143: no access is in progress. -/
theorem closeFrame_noAccess (hreset : s.port.softReset = false) (ha : openAccess s.port.phase = none)
    (hcut : s.fieldCut = false) (tail : List Bool) :
    s.closeFrame tail = frameEnded s (s.bitsCount tail) s.port.loopLength := by
  rw [closeFrame_eq hreset, cutOff_uncut hcut, endAccess_none (s := withBits s (s.bitsCount tail)) ha]
  rfl

/-- R147, R154: the loop length that a soft reset keeps is the one left by the end of its term. -/
def loopKept (s : State) : Option Access → Byte
  | some a => if a.taken && !(a.keepLoop || a.loopWritten) then 0 else s.port.loopLength
  | none => s.port.loopLength

/-- R154: at the end of the frame the soft reset takes effect. -/
theorem closeFrame_softReset (hreset : s.port.softReset = true) {access : Option Access}
    (hphase : s.port.phase = .disregard access) (tail : List Bool) :
    s.closeFrame tail =
      { State.reset with
        pending := s.pending
        port := { HostPort.reset with
          config := s.port.config, loopLength := loopKept s access, crcOn := s.port.crcOn
          chipCode := s.port.chipCode, sdo := s.port.sdo } } := by
  have hcut : s.fieldCut = false := by rw [State.fieldCut, hphase]
  have hclose : s.closeFrame tail =
      (withBits s (s.bitsCount tail)).endAccess.resetWith
        (withBits s (s.bitsCount tail)).endAccess.port.afterSoftReset := by
    rw [State.closeFrame, cutAtEnd_eq, flagIf_bitCount]
    refine (if_pos hreset).trans ?_
    change State.resetWith (State.setPhase (State.endAccess (cutOff s tail)) .idle)
      (State.setPhase (State.endAccess (cutOff s tail)) .idle).port.afterSoftReset = _
    rw [cutOff_uncut hcut]
    rfl
  have hopen : openAccess (withBits s (s.bitsCount tail)).port.phase = access := congrArg openAccess hphase
  rw [hclose]
  cases access with
  | none =>
    rw [endAccess_none hopen]
    rfl
  | some a =>
    rw [endAccess_some hopen, closeAccess_eq, loopKept]
    cases a.taken <;> cases (a.keepLoop || a.loopWritten) <;> rfl

end Parts

theorem exec_csnRise {s : State} (hheld : s.resetHeld = false) (tail : List Bool) :
    exec (.csnRise tail) s = .next (s.closeFrame tail) := by
  change execCsnRise tail s = _
  rw [execCsnRise, if_neg (by simp [hheld])]

/-- Settles O50: each phase in which CSN can rise, with the soft reset last. -/
theorem csnRiseEndsTheFrame : Obligations.CsnRiseEndsTheFrame := by
  refine ⟨?_, fun s tail hheld => ?_, fun s access tail hheld hreset hphase => ?_⟩
  · intro s tail hheld hreset e chip rises ended left
    have hrises {t : State} (h : s.closeFrame tail = t) : rises t := h ▸ exec_csnRise hheld tail
    refine ⟨fun hphase => hrises ?_, fun hphase => hrises ?_, fun first st hphase => hrises ?_,
      fun first second inClear hphase => hrises ?_, ?_, fun a t hphase => hrises ?_,
      fun hphase => hrises ?_, fun a hphase => hrises ?_⟩
    · rw [closeFrame_noAccess hreset (by rw [hphase]; rfl) (by rw [State.fieldCut, hphase]), State.bitsCount, hphase,
        Bool.and_false, frameEnded, Bool.or_false, ← hphase]
    · have hopen : openAccess s.port.phase = none := by
        obtain h | ⟨st, h⟩ := hphase <;> rw [h] <;> rfl
      have hcut : s.fieldCut = false := by
        obtain h | ⟨st, h⟩ := hphase <;> rw [State.fieldCut, h]
      have hbits : s.bitsCount tail = (!tail.isEmpty && s.chipBitsMatch tail) := by
        obtain h | ⟨st, h⟩ := hphase <;> rw [State.bitsCount, h]
      rw [closeFrame_noAccess hreset hopen hcut, hbits, chipBitsMatch_eq, Bool.and_comm]
      rfl
    · rw [closeFrame_noAccess hreset (by rw [hphase]; rfl) (by rw [State.fieldCut, hphase]), State.bitsCount, hphase,
        Bool.and_comm]
      rfl
    · rw [closeFrame_noAccess hreset (by rw [hphase]; rfl) (by rw [State.fieldCut, hphase]), State.bitsCount, hphase,
        Bool.and_comm]
      rfl
    · intro a hphase cut t
      refine hrises ?_
      have hcut : s.fieldCut = cut := by rw [State.fieldCut, hphase]
      rw [closeFrame_access hreset (a := a) (by rw [hphase]; rfl), hcut, State.bitsCount, hphase, Bool.and_comm]
      rfl
    · rw [closeFrame_uncut hreset (a := a) (by rw [hphase]; rfl) (by rw [State.fieldCut, hphase]), State.bitsCount,
        hphase, Bool.and_comm]
      rfl
    · rw [closeFrame_noAccess hreset (by rw [hphase]; rfl) (by rw [State.fieldCut, hphase]), State.bitsCount, hphase,
        Bool.and_comm]
      rfl
    · rw [closeFrame_uncut hreset (a := a) (by rw [hphase]; rfl) (by rw [State.fieldCut, hphase]), State.bitsCount,
        hphase, Bool.and_comm]
      rfl
  · change execCsnRise tail s = _
    rw [execCsnRise, if_pos hheld]
    rfl
  · rw [exec_csnRise hheld, closeFrame_softReset hreset hphase]
    rfl

end Sys2Proof.Proofs.FrameEnd
end

section
/-! PROOFS. What every field reads, in the layouts of spec/10, and the values after reset (R144, R153). -/

namespace Sys2Proof.Proofs.AddressMap

open Sys2Proof.Machine Sys2Proof.Laws
open Sys2Proof.Proofs.DirectoryCommands (marks_seven)
open Sys2Proof.Proofs.SettingWrites (errors_any_iff)
open Sys2Proof.Proofs.ReceiverBytes (bytes16_join16)
open Sys2Proof.Proofs.KeptLaws (slot_reset node_reset)

/-! ## Marks -/

theorem marks_two (b0 b1 : Bool) : marks [b0, b1] = 0#6 ++ BitVec.ofBool b1 ++ BitVec.ofBool b0 := by
  revert b0 b1
  decide

theorem marks_four (b0 b1 b2 b3 : Bool) :
    marks [b0, b1, b2, b3] =
      0#4 ++ BitVec.ofBool b3 ++ BitVec.ofBool b2 ++ BitVec.ofBool b1 ++ BitVec.ofBool b0 := by
  revert b0 b1 b2 b3
  decide

theorem marks_eight (b0 b1 b2 b3 b4 b5 b6 b7 : Bool) :
    marks [b0, b1, b2, b3, b4, b5, b6, b7] =
      BitVec.ofBool b7 ++ BitVec.ofBool b6 ++ BitVec.ofBool b5 ++ BitVec.ofBool b4 ++ BitVec.ofBool b3
        ++ BitVec.ofBool b2 ++ BitVec.ofBool b1 ++ BitVec.ofBool b0 := by
  revert b0 b1 b2 b3 b4 b5 b6 b7
  decide

theorem marks_one (b : Bool) : marks [b] = 0#7 ++ BitVec.ofBool b := by
  revert b
  decide

/-- Nine marks in two bytes, the ninth in the high one. -/
theorem bytes16_nine (high : Bool) (low : Byte) : bytes16 (marks [high] ++ low) = [low, 0#7 ++ BitVec.ofBool high] :=
  (bytes16_join16 low (marks [high])).trans (by rw [marks_one])

theorem mask_bytes (mask : BitVec 9) :
    bytes16 (mask.setWidth 16) = [mask.extractLsb' 0 8, 0#7 ++ mask.extractLsb' 8 1] := by
  revert mask
  decide

theorem rate_byte (rate : BitVec 2) : rate.setWidth 8 = 0#6 ++ rate := by
  revert rate
  decide

theorem channel_byte (channel : BitVec 4) : channel.setWidth 8 = 0#4 ++ channel := by
  revert channel
  decide

/-! ## The level events and the class (R103, R121, R127, R129) -/

theorem errors_any_eq (e : ErrorFlags) :
    e.any = decide (e ≠ ⟨false, false, false, false, false, false, false, false, false⟩) := by
  rw [Bool.eq_iff_iff, decide_eq_true_eq]
  exact errors_any_iff e

theorem attentionEvent_eq (s : State) : s.attentionEvent = decide (s.attention ≠ [] ∧ s.resetHeld = false) := by
  rw [State.attentionEvent]
  cases s.attention <;> cases s.resetHeld <;> rfl

theorem busy_eq (c : CommandState) : c.busy = (c != .idle) := by cases c <;> rfl

theorem anyEvent_eq (s : State) :
    s.anyEvent = (s.events.done || s.attentionEvent || s.events.loadFired || s.events.stray || s.events.damage
      || s.events.cycle || s.events.wake || s.port.errors.any || s.events.resetNoted) := by
  simp only [State.anyEvent, State.eventMarks, State.interfaceEvent, List.any_cons, List.any_nil, id_eq, Bool.or_false,
    Bool.or_assoc]

/-- R153: the summary, mark by mark, with the cycle class in bits 5 and 6. -/
theorem summary_eq (s : State) :
    s.summary =
      0#1 ++ s.cycle.state.class ++ BitVec.ofBool s.port.errors.any ++ BitVec.ofBool s.anyEvent
        ++ BitVec.ofBool s.attentionEvent ++ BitVec.ofBool s.command.state.busy ++ BitVec.ofBool s.clearing := by
  rw [State.summary, State.summaryLow]
  generalize s.cycle.state.class = c, s.port.errors.any = e, s.anyEvent = v, s.attentionEvent = a,
    s.command.state.busy = b, s.clearing = d
  rw [List.cons_append, List.cons_append, List.cons_append, List.cons_append, List.cons_append, List.nil_append,
    marks_seven]
  revert c e v a b d
  decide

theorem image_emptySlot (generation : Byte) :
    (Slot.image ⟨generation, none⟩).toList = [0, 0, 0, generation, 0, 0, 0, 0, 0, 0, 0, 0, 0, 0, 0, 0] := rfl

/-- Settles O1: the fields whose layout is not that of their definition, mark by mark, and the values after reset. -/
theorem resetReadsAsTheAddressMap : Obligations.ResetReadsAsTheAddressMap := by
  refine ⟨?_, fun f => ?_, slot_reset, node_reset, rfl, rfl, rfl, rfl, rfl, rfl, rfl, rfl, rfl⟩
  · intro s f lo hi bit number identity e interface attention v anyEvent
    have hinterface : s.port.errors.any = interface := errors_any_eq e
    have hattention : s.attentionEvent = attention := attentionEvent_eq s
    have hany : s.anyEvent = anyEvent := by rw [anyEvent_eq, hinterface, hattention]
    cases f with
    | interfaceControl => exact congrArg (fun b : Byte => [b]) (marks_four _ _ _ _)
    | crcEnablePair => cases h : s.port.crcOn <;> simp only [State.readField, h] <;> rfl
    | summary =>
      have hsummary := summary_eq s
      rw [hinterface, hany, hattention, busy_eq] at hsummary
      refine congrArg (fun b : Byte => [b]) (hsummary.trans ?_)
      cases s.cycle.state <;> rfl
    | errorFlags =>
      refine (bytes16_nine _ _).trans ?_
      rw [marks_eight]
    | eventRegister =>
      refine (bytes16_nine _ _).trans ?_
      rw [marks_eight, hattention, State.interfaceEvent, hinterface]
    | eventMask => exact mask_bytes s.mask
    | cycleControl => exact congrArg (fun b : Byte => [b]) (marks_two _ _)
    | lineRate => exact congrArg (fun b : Byte => [b]) (rate_byte s.line.rate)
    | commandState => cases h : s.command.state <;> simp only [State.readField, h] <;> rfl
    | strayCapture =>
      change Stray.bytes s.stray = _
      rw [Stray.bytes, channel_byte, marks_two]
      rfl
    | recordImage i =>
      change (s.slot i).image.toList = _
      cases hr : (s.slot i).record with
      | none =>
        simp only [Slot.image, hr]
        rfl
      | some r => simp only [Slot.image, hr]
    | _ => rfl
  · cases f with
    | recordImage i =>
      change (State.reset.slot i).image.toList = _
      rw [slot_reset, image_emptySlot]
      rfl
    | _ => rfl

end Sys2Proof.Proofs.AddressMap
end

section
/-! PROOFS. A run of bytes that is one whole field (spec/09 R134, R144, R150, R151): how it is judged, and where it is a row of its own. -/

namespace Sys2Proof.Proofs.WholeFieldWrites

open Sys2Proof.Machine Sys2Proof.Laws
open Sys2Proof.Proofs.RegisterWrites
open Sys2Proof.Proofs.ReceiverBytes (bytes16_join16)

/-! ## What the row of a field does (R144, R150) -/

section Effects

variable {s : State} {f : Field} {bytes : List Byte}

theorem applyField_readOnly (h : f.readOnly = true) (s : State) (bytes : List Byte) :
    s.applyField f bytes = s.flag .readOnlyWrite := by
  cases f <;> cases h <;> rfl

theorem known_of_readOnly (h : f.readOnly = true) : f.isUnknown = false ∧ f ≠ .crcEnablePair := by
  cases f <;> cases h <;> exact ⟨rfl, nofun⟩

theorem rowFlags_ready (hclear : s.accessInClear = false) :
    rowFlags s f =
      (s.flagIf f.isUnknown .unknownAddress).flagIf
        (f.readOnly || (f == .crcEnablePair && !(s.rowAccess false (f.first s.rowDirection)).atPair)) .readOnlyWrite :=
  if_neg (by simp [hclear])

theorem rowFlags_readOnly (hclear : s.accessInClear = false) (h : f.readOnly = true) :
    rowFlags s f = s.flag .readOnlyWrite := by
  rw [rowFlags_ready hclear, (known_of_readOnly h).1, h]
  rfl

theorem rowFlags_unknown (hclear : s.accessInClear = false) (address : HostAddr) :
    rowFlags s (.unknown address) = s.flag .unknownAddress := by
  rw [rowFlags_ready hclear]
  rfl

/-- A field that is neither read-only nor unknown nor the CRC enable pair sets no flag. -/
theorem rowFlags_plain (hclear : s.accessInClear = false) (hunknown : f.isUnknown = false)
    (hreadOnly : f.readOnly = false) (hpair : f ≠ .crcEnablePair) : rowFlags s f = s := by
  rw [rowFlags_ready hclear, hunknown, hreadOnly, beq_eq_false_iff_ne.2 hpair]
  rfl

/-- R150: a stream that reaches the CRC enable pair. -/
theorem rowFlags_pair (hclear : s.accessInClear = false) (hpair : s.startsAtPair = false) :
    rowFlags s .crcEnablePair = s.flag .readOnlyWrite := by
  rw [rowFlags_ready hclear]
  change (s.flagIf false .unknownAddress).flagIf (false || (true && !s.startsAtPair)) .readOnlyWrite = _
  rw [hpair]
  rfl

theorem rowEffect_notPair (hclear : s.accessInClear = false) (hpair : f ≠ .crcEnablePair) :
    rowEffect s f bytes = (rowFlags s f).applyField f bytes :=
  (if_neg (by simp [hclear])).trans (if_neg fun h => hpair h.1)

theorem rowEffect_readOnly (hclear : s.accessInClear = false) (h : f.readOnly = true) :
    rowEffect s f bytes = s.flag .readOnlyWrite := by
  rw [rowEffect_notPair hclear (known_of_readOnly h).2, rowFlags_readOnly hclear h, applyField_readOnly h]
  rfl

theorem rowEffect_unknown (hclear : s.accessInClear = false) (address : HostAddr) :
    rowEffect s (.unknown address) bytes = s.flag .unknownAddress := by
  rw [rowEffect_notPair hclear (show Field.unknown address ≠ .crcEnablePair by simp), rowFlags_unknown hclear]
  rfl

end Effects

/-! ## The window and the argument (R134) -/

/-- The fields that a BUSY command unit locks. -/
def guardedFields : List Field :=
  [.commandArgument, .windowIdentity, .windowFirst, .windowSecond, .windowSelect, .windowGroup, .windowPermit,
    .windowDemand]

theorem guardedField_of_address {address : HostAddr} (hbase : (fieldAt address).base = address)
    (h : address = 0x0034 ∨ (0x0050 ≤ address ∧ address ≤ 0x005F)) : fieldAt address ∈ guardedFields := by
  obtain rfl | ⟨hlow, hhigh⟩ := h
  · decide
  · have hall : ∀ n < 16, (fieldAt (BitVec.ofNat 13 (80 + n))).base = BitVec.ofNat 13 (80 + n) →
        fieldAt (BitVec.ofNat 13 (80 + n)) ∈ guardedFields := by decide
    have hlow' : 80 ≤ address.toNat := hlow
    have hhigh' : address.toNat ≤ 95 := hhigh
    have haddress : BitVec.ofNat 13 (80 + (address.toNat - 80)) = address := by
      refine BitVec.eq_of_toNat_eq ?_
      rw [BitVec.toNat_ofNat]
      omega
    have hfield := hall (address.toNat - 80) (by omega)
    rw [haddress] at hfield
    exact hfield hbase

theorem applyField_guarded_busy {s : State} {f : Field} (hf : f ∈ guardedFields) (hbusy : s.command.state ≠ .idle)
    (bytes : List Byte) : s.applyField f bytes = s.flag .windowLocked := by
  fin_cases hf <;> exact writeGuarded_busy (s := s) hbusy _

theorem plain_of_guarded {f : Field} (hf : f ∈ guardedFields) :
    f.isUnknown = false ∧ f.readOnly = false ∧ f ≠ .crcEnablePair := by
  fin_cases hf <;> exact ⟨rfl, rfl, nofun⟩

/-! ## The run of bytes -/

section Run

variable {s : State} {address : HostAddr} {bytes : List Byte} {crc : Byte}

/-- R144: with a good CRC byte the run does what the row of its field does. -/
theorem leads_registerWrite (hready : s.HostReady (fieldAt address) false) (hbase : (fieldAt address).base = address)
    (hlength : bytes.length = (fieldAt address).length)
    (hcrc : s.fieldCrcMatches (fieldAt address) bytes crc = true) :
    Leads s (.registerWrite address bytes crc) (rowEffect s (fieldAt address) bytes) := by
  refine ⟨fieldAt address, rfl, ?_⟩
  rw [exec_registerWrite_good hready.1 hbase hlength hcrc, hready.2]
  rfl

/-- R134: a run that is a field of the window or the argument. -/
theorem leads_guarded (hready : s.HostReady (fieldAt address) false) (hbase : (fieldAt address).base = address)
    (hlength : bytes.length = (fieldAt address).length)
    (hcrc : s.fieldCrcMatches (fieldAt address) bytes crc = true) (hf : fieldAt address ∈ guardedFields) :
    Leads s (.registerWrite address bytes crc) (s.applyField (fieldAt address) bytes) := by
  obtain ⟨hunknown, hreadOnly, hpair⟩ := plain_of_guarded hf
  have hleads := leads_registerWrite hready hbase hlength hcrc
  rwa [rowEffect_plain hready.2 hunknown hreadOnly hpair] at hleads

/-- R134: in the idle command unit the argument or the window takes the bytes. -/
theorem leads_argument (hready : s.HostReady (fieldAt address) false) (hbase : (fieldAt address).base = address)
    (hlength : bytes.length = (fieldAt address).length)
    (hcrc : s.fieldCrcMatches (fieldAt address) bytes crc = true) (hidle : s.command.state = .idle) {f : Field}
    (hf : fieldAt address = f) (hguarded : f ∈ guardedFields) {c : CommandUnit}
    (hc : s.applyField f bytes = s.writeGuarded c) :
    Leads s (.registerWrite address bytes crc) { s with command := c } := by
  have hleads := leads_guarded hready hbase hlength hcrc (hf ▸ hguarded)
  rwa [hf, hc, writeGuarded_idle hidle] at hleads

/-- R144: where the field has a row of its own, the run is that row. -/
theorem exec_registerWrite_own (hnext : s.FieldNext (fieldAt address) false) (hbase : (fieldAt address).base = address)
    (hlength : bytes.length = (fieldAt address).length)
    (hcrc : s.fieldCrcMatches (fieldAt address) bytes crc = true) {f : Field} (hf : fieldAt address = f) {own : Instr}
    (hown : exec own s = .next (s.writeField f bytes)) : exec (.registerWrite address bytes crc) s = exec own s := by
  rw [hown, exec_registerWrite_good hnext hbase hlength hcrc, State.writeField, ← hf,
    hostWrite_good (genuine_fieldAt address) hnext hlength (by simp)]

/-- R151: a CRC byte can only fail where one is in force, and none is in an access that starts at the pair. -/
theorem startsAtPair_of_bad (hcrc : ¬ s.fieldCrcMatches .crcEnablePair bytes crc = true) : s.startsAtPair = false := by
  rw [State.fieldCrcMatches] at hcrc
  rw [State.startsAtPair]
  by_contra hpair
  rw [Bool.not_eq_false] at hpair
  rw [hpair] at hcrc
  simp at hcrc

theorem turnedAway_registerWrite (hready : s.HostReady (fieldAt address) false)
    (hbase : (fieldAt address).base = address) (hlength : bytes.length = (fieldAt address).length)
    (hcrc : ¬ s.fieldCrcMatches (fieldAt address) bytes crc = true) :
    TurnedAway s (.registerWrite address bytes crc) ((rowFlags s (fieldAt address)).flag .crcMismatch) :=
  exec_registerWrite_bad hready.1 hbase hlength (Bool.eq_false_of_not_eq_true hcrc)

end Run

/-- spec/10, Command arguments: the code of each command. -/
theorem exec_command_own {code : Byte} {own : Instr}
    (h : (code, own) ∈ ([(0x01, .lookup), (0x02, .readSlot), (0x03, .insert), (0x04, .amend), (0x05, .retire),
      (0x06, .find), (0x11, .readNode), (0x12, .offer), (0x13, .retireNode), (0x21, .load), (0x22, .schedule),
      (0x23, .unschedule), (0x3F, .abort)] : List (Byte × Instr))) (s : State) :
    exec own s = .next (s.writeField .commandCode [code]) := by
  simp only [List.mem_cons, Prod.mk.injEq, List.not_mem_nil, or_false] at h
  obtain ⟨rfl, rfl⟩ | ⟨rfl, rfl⟩ | ⟨rfl, rfl⟩ | ⟨rfl, rfl⟩ | ⟨rfl, rfl⟩ | ⟨rfl, rfl⟩ | ⟨rfl, rfl⟩ | ⟨rfl, rfl⟩
    | ⟨rfl, rfl⟩ | ⟨rfl, rfl⟩ | ⟨rfl, rfl⟩ | ⟨rfl, rfl⟩ | ⟨rfl, rfl⟩ := h <;> rfl

theorem withMarks_eq {b : Byte} (h6 : b.getLsbD 6 = true) (h7 : b.getLsbD 7 = true) : b ||| 0xC0 = b := by
  revert b
  decide

end Sys2Proof.Proofs.WholeFieldWrites
end

section
/-! PROOFS. A run of bytes that is not one whole field (spec/09 R144, R145, R147, R150, R151), in a frame of its own and in an access in progress, and the statement about the row REGISTER_WRITE. -/

namespace Sys2Proof.Proofs.PartialWrites

open Sys2Proof.Machine Sys2Proof.Laws
open Sys2Proof.Proofs.RegisterWrites Sys2Proof.Proofs.WholeFieldWrites
open Sys2Proof.Proofs.ReceiverBytes (bytes16_join16)
open Sys2Proof.Proofs.PortBytes
open Sys2Proof.Proofs.FrameEnd

/-! ## The addresses of a field -/

theorem fieldAt_holds (address : HostAddr) :
    (fieldAt address).base.toNat ≤ address.toNat
    ∧ address.toNat < (fieldAt address).base.toNat + (fieldAt address).length := by
  by_cases hrecord : 0x0400 ≤ address.toNat ∧ address.toNat < 0x1C00
  · rw [fieldAt_record hrecord]
    simp only [Field.base, Field.length, BitVec.toNat_ofNat]
    omega
  · rw [fieldAt_low hrecord]
    cases hfind : registerFields.find? (·.holds address) with
    | none => simp [Field.base, Field.length]
    | some f =>
      have hholds := List.find?_some hfind
      rw [Field.holds, Bool.and_eq_true, decide_eq_true_eq, decide_eq_true_eq] at hholds
      exact hholds

theorem fieldAt_register : ∀ f ∈ registerFields, ∀ k < f.length, fieldAt (f.base + BitVec.ofNat 13 k) = f := by decide

/-- Every address of a field belongs to it. -/
theorem fieldAt_inside {address x : HostAddr} (hlow : (fieldAt address).base.toNat ≤ x.toNat)
    (hhigh : x.toNat < (fieldAt address).base.toNat + (fieldAt address).length) : fieldAt x = fieldAt address := by
  by_cases hrecord : 0x0400 ≤ address.toNat ∧ address.toNat < 0x1C00
  · rw [fieldAt_record hrecord] at hlow hhigh ⊢
    simp only [Field.base, Field.length, BitVec.toNat_ofNat] at hlow hhigh
    rw [fieldAt_record (by omega)]
    refine congrArg Field.recordImage (Fin.ext ?_)
    change (x.toNat - 1024) / 16 = (address.toNat - 1024) / 16
    omega
  · rw [fieldAt_low hrecord] at hlow hhigh ⊢
    cases hfind : registerFields.find? (·.holds address) with
    | none =>
      rw [hfind] at hlow hhigh
      simp only [Field.base, Field.length] at hlow hhigh
      have hx : x = address := BitVec.eq_of_toNat_eq (by omega)
      rw [hx, fieldAt_low hrecord, hfind]
    | some f =>
      rw [hfind] at hlow hhigh
      simp only at hlow hhigh ⊢
      have hx : f.base + BitVec.ofNat 13 (x.toNat - f.base.toNat) = x := by
        refine BitVec.eq_of_toNat_eq ?_
        have := x.isLt
        rw [BitVec.toNat_add, BitVec.toNat_ofNat]
        omega
      have hmem := fieldAt_register f (List.mem_of_find?_eq_some hfind) (x.toNat - f.base.toNat) (by omega)
      rwa [hx] at hmem

/-! ## Where no CRC byte is awaited -/

theorem clockFieldByte_eq (crc : Option Byte) (s : State) (b : Byte) :
    State.clockFieldByte crc s b = closeField crc (s.clockByte b) := rfl

theorem clockFieldByte_plain {s : State} {b : Byte} (h : ∀ a t, (s.clockByte b).port.phase ≠ .fieldCrc a t)
    (crc : Option Byte) : State.clockFieldByte crc s b = s.clockByte b :=
  (clockFieldByte_eq crc s b).trans (closeField_none h crc)

theorem data_ne_fieldCrc (a b : Access) (t : Transfer) : PortPhase.data a ≠ .fieldCrc b t := nofun

theorem disregard_ne_fieldCrc (access : Option Access) (b : Access) (t : Transfer) :
    PortPhase.disregard access ≠ .fieldCrc b t := nofun

theorem hostCrc_ne_fieldCrc (first second : Byte) (d : Bool) (b : Access) (t : Transfer) :
    PortPhase.hostCrc first second d ≠ .fieldCrc b t := nofun

theorem instruction_ne_fieldCrc (first : Option Byte) (st : StatusBytes) (b : Access) (t : Transfer) :
    PortPhase.instruction first st ≠ .fieldCrc b t := nofun

/-- No CRC byte is in force in the frame, and none is awaited. -/
def WithoutCrc (s : State) : Prop := s.port.frameCrc = false ∧ ∀ a t, s.port.phase ≠ .fieldCrc a t

section WithoutCrc

variable {s : State}

theorem withoutCrc_setPhase (h : s.port.frameCrc = false) {ph : PortPhase} (hph : ∀ a t, ph ≠ .fieldCrc a t) :
    WithoutCrc (s.setPhase ph) := ⟨h, hph⟩

theorem frameCrc_portBehind (u : State) (a : Access) (own : Bool) :
    (u.portBehind a own).frameCrc = u.port.frameCrc := by
  rw [State.portBehind]
  split
  · rfl
  · split
    · rfl
    · split <;> rfl

theorem withoutCrc_afterField (h : s.port.frameCrc = false) (a : Access) : WithoutCrc (s.afterField a) := by
  refine ⟨?_, afterField_phase s a⟩
  rw [afterField_eq]
  exact (frameCrc_portBehind s a false).trans h

theorem frameCrc_applyTransfer (s : State) (a : Access) (t : Transfer) :
    (s.applyTransfer a t).port.frameCrc = s.port.frameCrc :=
  congrArg (·.port.frameCrc) (applyTransfer_stand s s.port.phase s.port.sdo s.port.frameCrc a t)

theorem withoutCrc_applyAndGoOn (h : s.port.frameCrc = false) (a : Access) (t : Transfer) :
    WithoutCrc (s.applyAndGoOn a t) :=
  withoutCrc_afterField ((frameCrc_applyTransfer s a t).trans h) (a.noteApplied t)

theorem withoutCrc_finishField (h : s.port.frameCrc = false) (a : Access) (t : Transfer) :
    WithoutCrc (s.finishField a t) := by
  rw [finishField_eq, if_neg (by simp [h])]
  exact withoutCrc_applyAndGoOn ((frameCrc_lastByte s a t).trans h) a t

theorem frameCrc_startEffects (s : State) (a : Access) : (s.startEffects a).port.frameCrc = s.port.frameCrc := by
  cases htaken : a.taken with
  | true => rw [startEffects_eq htaken]
  | false => rw [show s.startEffects a = s from if_pos (by simp [htaken])]

theorem withoutCrc_transferByte (h : s.port.frameCrc = false) (a : Access) (t : Transfer) (b : Byte) :
    WithoutCrc (s.transferByte a t b) := by
  by_cases hleft : 2 ≤ t.left
  · by_cases hloops : Loops a
    · rw [transferByte_cut hleft hloops]
      exact withoutCrc_setPhase ((frameCrc_flagIf (s.emit [dataOut a t]) _ _).trans h) (data_ne_fieldCrc _)
    · rw [transferByte_inside hleft hloops]
      exact withoutCrc_setPhase (s := s.emit [dataOut a t]) h (data_ne_fieldCrc _)
  · rw [transferByte_last (by omega)]
    exact withoutCrc_finishField (s := s.emit [dataOut a t]) h _ _

theorem withoutCrc_dataByte (h : s.port.frameCrc = false) (a : Access) (b : Byte) : WithoutCrc (s.dataByte a b) := by
  rw [State.dataByte]
  split
  · rw [closeAccess_eq]
    exact withoutCrc_setPhase h (disregard_ne_fieldCrc _)
  · split
    · exact withoutCrc_transferByte h a _ b
    · exact withoutCrc_transferByte ((frameCrc_startEffects s a).trans h) a _ b

theorem withoutCrc_beginData (h : s.port.frameCrc = false) (a : Access) : WithoutCrc (s.beginData a) :=
  withoutCrc_setPhase ((frameCrc_flagIf s a.turnedAway .notReady).trans h) (data_ne_fieldCrc a)

theorem withoutCrc_instructionEnd (h : s.port.frameCrc = false) (first second : Byte) (d : Bool) :
    WithoutCrc (s.instructionEnd first second d) := by
  rw [State.instructionEnd]
  split
  · exact withoutCrc_setPhase h (disregard_ne_fieldCrc _)
  · rw [if_neg (by simp [h])]
    exact withoutCrc_beginData h _

theorem withoutCrc_checkInstruction (h : s.port.frameCrc = false) (first second : Byte) (d : Bool) (crc : Byte) :
    WithoutCrc (s.checkInstruction first second d crc) := by
  rw [State.checkInstruction]
  split
  · exact withoutCrc_beginData h _
  · exact withoutCrc_setPhase ((frameCrc_flagIf s _ _).trans h) (disregard_ne_fieldCrc _)

theorem withoutCrc_clockByte (h : WithoutCrc s) (b : Byte) : WithoutCrc (s.clockByte b) := by
  obtain ⟨hcrc, hphase⟩ := h
  rw [State.clockByte]
  split
  · exact ⟨hcrc, hphase⟩
  · exact withoutCrc_setPhase hcrc (instruction_ne_fieldCrc _ _)
  · exact withoutCrc_setPhase hcrc (instruction_ne_fieldCrc _ _)
  · next first st _ => exact withoutCrc_instructionEnd (s := s.emit [s.statusOut first (.byte st.second)]) hcrc _ _ _
  · exact withoutCrc_checkInstruction (s := s.emit [.highZ]) hcrc _ _ _ _
  · exact withoutCrc_dataByte hcrc _ b
  · next a t hfield => exact absurd hfield (hphase a t)
  · next access hdisregard => exact ⟨hcrc, hphase⟩

/-- R150: where no CRC is in force, the bytes of a row are its bytes on SDI. -/
theorem foldl_withoutCrc (crc : Option Byte) (bytes : List Byte) (h : WithoutCrc s) :
    bytes.foldl (State.clockFieldByte crc) s = bytes.foldl State.clockByte s := by
  induction bytes generalizing s with
  | nil => rfl
  | cons b rest ih =>
    have hbehind := withoutCrc_clockByte h b
    rw [List.foldl_cons, List.foldl_cons, clockFieldByte_plain hbehind.2, ih hbehind]

end WithoutCrc

end Sys2Proof.Proofs.PartialWrites
end

section
/-! PROOFS. A run of bytes that is part of one field (spec/09 R145, R147, R151): the field is cut, or its last byte ends it. -/

namespace Sys2Proof.Proofs.PartOfField

open Sys2Proof.Machine Sys2Proof.Laws
open Sys2Proof.Proofs.PortBytes Sys2Proof.Proofs.FrameEnd Sys2Proof.Proofs.PartialWrites

/-! ## Where the run lies in its field -/

/-- The run of `n` bytes from an address on is part of the field at that address, and not the whole of it. -/
structure PartRun (address : HostAddr) (n : Nat) : Prop where
  nonempty : 0 < n
  inside : address.toNat + n ≤ (fieldAt address).base.toNat + (fieldAt address).length
  notWhole : (fieldAt address).base ≠ address ∨ n < (fieldAt address).length

/-- Whether the run reaches the last byte of its field, in the direction of transfer. -/
def reachesEnd (d : Direction) (address : HostAddr) (n : Nat) : Bool :=
  match d with
  | .ascending => address.toNat + n == (fieldAt address).base.toNat + (fieldAt address).length
  | .descending => address == (fieldAt address).base

section Place

variable {d : Direction} {address : HostAddr} {n : Nat}

/-- R151: the CRC byte of a field entered in the middle is seeded with the lowest address that has crossed. -/
theorem lowestOf_runStart (hlast : reachesEnd d address n = true) :
    lowestOf (fieldAt address) d (runStart d address n) = address := by
  cases d with
  | ascending => rfl
  | descending => exact (beq_iff_eq.1 hlast).symm

variable (h : PartRun address n)

include h

theorem PartRun.lengths : 2 ≤ (fieldAt address).length ∧ (fieldAt address).base.toNat ≤ address.toNat
    ∧ address.toNat + n ≤ 8192 ∧ ((fieldAt address).base.toNat < address.toNat ∨ n < (fieldAt address).length) := by
  obtain ⟨hnonempty, hinside, hpart⟩ := h
  have hlow := (fieldAt_holds address).1
  have hmap := (genuine_spec (genuine_fieldAt address)).2.1
  have hplace : (fieldAt address).base.toNat < address.toNat ∨ n < (fieldAt address).length := by
    refine hpart.imp (fun hne => ?_) id
    have hne' : (fieldAt address).base.toNat ≠ address.toNat := fun heq => hne (BitVec.eq_of_toNat_eq heq)
    omega
  exact ⟨by omega, hlow, by omega, hplace⟩

theorem PartRun.runStart_toNat : (runStart d address n).toNat = match d with
    | .ascending => address.toNat
    | .descending => address.toNat + n - 1 := by
  obtain ⟨-, -, hmap, -⟩ := h.lengths
  have hnonempty := h.nonempty
  cases d with
  | ascending => rfl
  | descending =>
    change (address + BitVec.ofNat 13 (n - 1)).toNat = _
    rw [BitVec.toNat_add, BitVec.toNat_ofNat]
    dsimp only
    omega

theorem PartRun.fieldAt_runStart : fieldAt (runStart d address n) = fieldAt address := by
  have hstart := h.runStart_toNat (d := d)
  obtain ⟨-, hlow, -, -⟩ := h.lengths
  obtain ⟨hnonempty, hinside, -⟩ := h
  cases d <;> dsimp only at hstart <;> exact fieldAt_inside (by omega) (by omega)

theorem PartRun.bytesToEnd_runStart :
    if reachesEnd d address n then bytesToEnd (fieldAt address) d (runStart d address n) = n
    else n < bytesToEnd (fieldAt address) d (runStart d address n) := by
  have hstart := h.runStart_toNat (d := d)
  obtain ⟨-, hlow, -, -⟩ := h.lengths
  obtain ⟨hnonempty, hinside, -⟩ := h
  cases d with
  | ascending =>
    rw [reachesEnd, bytesToEnd, hstart]
    simp only [beq_iff_eq]
    split <;> omega
  | descending =>
    rw [reachesEnd, bytesToEnd, hstart]
    simp only [beq_iff_eq]
    split
    · next heq => rw [← heq] at hlow ⊢; omega
    · next hne =>
      have hne' : address.toNat ≠ (fieldAt address).base.toNat := fun heq => hne (BitVec.eq_of_toNat_eq heq)
      omega

/-- A run that reaches the last byte of its field has entered it in the middle. -/
theorem PartRun.runStart_ne_first (hlast : reachesEnd d address n = true) :
    runStart d address n ≠ (fieldAt address).first d := by
  intro heq
  have hend := h.bytesToEnd_runStart (d := d)
  rw [if_pos hlast, heq, bytesToEnd_first (genuine_fieldAt address)] at hend
  obtain hbase | hless := h.notWhole
  · cases d with
    | ascending => exact hbase heq.symm
    | descending => exact hbase (beq_iff_eq.1 hlast).symm
  · omega

theorem PartRun.known : (fieldAt address).isUnknown = false ∧ fieldAt address ≠ .crcEnablePair := by
  have hlength := h.lengths.1
  cases hfield : fieldAt address with
  | unknown x => rw [hfield] at hlength; exact absurd hlength (by change ¬ 2 ≤ 1; decide)
  | crcEnablePair => rw [hfield] at hlength; exact absurd hlength (by decide)
  | _ => exact ⟨rfl, nofun⟩

theorem PartRun.runStart_ne_pair : runStart d address n ≠ 0x0002 := by
  intro heq
  have hfield := h.fieldAt_runStart (d := d)
  rw [heq] at hfield
  exact h.known.2 (hfield.symm.trans (by decide))

end Place

/-! ## A run that ends inside the field -/

/-- None of the next `n` data bytes but the last is one behind which the address returns to the start (R147). -/
def NoLoopWithin (a : Access) (n : Nat) : Prop := ∀ k, 0 < k → k < n → a.loopsAt (a.count + k) = false

theorem noLoopWithin_advance {a : Access} {n : Nat} (h : NoLoopWithin a (n + 1)) (t : Option Transfer) :
    NoLoopWithin (withTransfer a.advance t) n := by
  intro k hpos hless
  have hbehind := h (k + 1) (by omega) (by omega)
  rwa [show a.count + (k + 1) = a.count + 1 + k by omega] at hbehind

theorem not_loops {a : Access} {n : Nat} (h : NoLoopWithin a n) (hn : 1 < n) : ¬ Loops a := by
  intro hloops
  have hcut := (loops_iff a).2 hloops
  rw [h 1 Nat.zero_lt_one hn] at hcut
  exact absurd hcut (by decide)

section Unfinished

variable {s : State} {a : Access} {t : Transfer}

theorem foldl_disregard (crc : Option Byte) (bytes : List Byte) {access : Option Access}
    (h : s.port.phase = .disregard access) :
    bytes.foldl (State.clockFieldByte crc) s = bytes.foldl State.clockByte s := by
  induction bytes generalizing s with
  | nil => rfl
  | cons b rest ih =>
    have hbehind : (s.clockByte b).port.phase = .disregard access := by
      rw [clockByte_disregard h]
      exact h
    rw [List.foldl_cons, List.foldl_cons,
      clockFieldByte_plain (fun b t => hbehind ▸ disregard_ne_fieldCrc access b t), ih hbehind]

/-- R142: behind the shared block a shared write has ceased. -/
theorem ceased_phase (hphase : s.port.phase = .data a) (htaken : a.taken = true) (honly : a.sharedOnly = true)
    (houtside : sharedAddr a.addr = false) (b : Byte) : (s.clockByte b).port.phase = .disregard none := by
  rw [clockByte_data hphase, dataByte_ceases htaken honly houtside]
  rfl

/-- R151: no CRC byte follows where no field ends. -/
theorem foldl_unfinished (crc : Option Byte) (bytes : List Byte) (hphase : s.port.phase = .data a)
    (htaken : a.taken = true) (ht : a.transfer = some t) (hleft : bytes.length < t.left)
    (hloop : NoLoopWithin a bytes.length) :
    bytes.foldl (State.clockFieldByte crc) s = bytes.foldl State.clockByte s := by
  induction bytes generalizing s a t with
  | nil => rfl
  | cons b rest ih =>
    rw [List.foldl_cons, List.foldl_cons]
    rw [List.length_cons] at hleft hloop
    by_cases hshared : a.sharedOnly = true → sharedAddr a.addr = true
    · have hbyte : s.clockByte b = s.transferByte a t b := (clockByte_data hphase b).trans (dataByte_some hshared ht)
      by_cases hloops : Loops a
      · have hone : rest = [] := List.length_eq_zero_iff.1 (by
          by_contra hmore
          exact not_loops hloop (by omega) hloops)
        subst hone
        have hcut := hbyte.trans (transferByte_cut (by omega) hloops)
        refine clockFieldByte_plain (fun c u => ?_) crc
        rw [hcut]
        exact data_ne_fieldCrc _ c u
      · have hinside := hbyte.trans (transferByte_inside (by omega) hloops)
        have hbehind : (s.clockByte b).port.phase =
            .data (withTransfer a.advance (some (t.cross a.isRead b))) := by
          rw [hinside]
          rfl
        rw [clockFieldByte_plain (fun c u => hbehind ▸ data_ne_fieldCrc _ c u)]
        exact ih hbehind htaken rfl (show rest.length < t.left - 1 by omega) (noLoopWithin_advance hloop _)
    · obtain ⟨honly, houtside⟩ := Classical.not_imp.1 hshared
      have hceased := ceased_phase hphase htaken honly (Bool.eq_false_of_not_eq_true houtside) b
      rw [clockFieldByte_plain (fun c u => hceased ▸ disregard_ne_fieldCrc none c u)]
      exact foldl_disregard crc rest hceased

/-- The state in which the field at the access's address has begun, and none of its bytes has crossed. -/
def fieldBegun (s : State) (a : Access) : State :=
  (s.startEffects a).setPhase (.data (withTransfer a (some ((s.startEffects a).newTransfer a))))

theorem clockByte_fieldBegun (hphase : s.port.phase = .data a) (hnone : a.transfer = none)
    (hshared : a.sharedOnly = true → sharedAddr a.addr = true) (b : Byte) :
    s.clockByte b = (fieldBegun s a).clockByte b :=
  (clockByte_data hphase b).trans (dataByte_begins hshared hnone)

theorem foldl_fieldBegun (hphase : s.port.phase = .data a) (hnone : a.transfer = none)
    (hshared : a.sharedOnly = true → sharedAddr a.addr = true) (crc : Option Byte) {bytes : List Byte}
    (hbytes : bytes ≠ []) :
    bytes.foldl (State.clockFieldByte crc) s = bytes.foldl (State.clockFieldByte crc) (fieldBegun s a)
    ∧ bytes.foldl State.clockByte s = bytes.foldl State.clockByte (fieldBegun s a) := by
  cases bytes with
  | nil => exact absurd rfl hbytes
  | cons b rest =>
    have hbyte := clockByte_fieldBegun hphase hnone hshared b
    refine ⟨?_, congrArg (rest.foldl State.clockByte) hbyte⟩
    rw [List.foldl_cons, List.foldl_cons, clockFieldByte_eq, clockFieldByte_eq, hbyte]

/-- R145: the bytes of a run that stops inside the field at which the access stands are its bytes on SDI. -/
theorem foldl_stopsInside (crc : Option Byte) {bytes : List Byte} (hbytes : bytes ≠ [])
    (hphase : s.port.phase = .data a) (htaken : a.taken = true) (hnone : a.transfer = none)
    (hleft : bytes.length < bytesToEnd (fieldAt a.addr) a.direction a.addr) (hloop : NoLoopWithin a bytes.length) :
    bytes.foldl (State.clockFieldByte crc) s = bytes.foldl State.clockByte s := by
  by_cases hshared : a.sharedOnly = true → sharedAddr a.addr = true
  · obtain ⟨hfield, hplain⟩ := foldl_fieldBegun hphase hnone hshared crc hbytes
    rw [hfield, hplain]
    exact foldl_unfinished (s := fieldBegun s a) (a := withTransfer a (some ((s.startEffects a).newTransfer a))) crc
      bytes rfl htaken rfl hleft hloop
  · obtain ⟨honly, houtside⟩ := Classical.not_imp.1 hshared
    cases bytes with
    | nil => rfl
    | cons b rest =>
      have hceased := ceased_phase hphase htaken honly (Bool.eq_false_of_not_eq_true houtside) b
      rw [List.foldl_cons, List.foldl_cons,
        clockFieldByte_plain (fun c u => hceased ▸ disregard_ne_fieldCrc none c u)]
      exact foldl_disregard crc rest hceased

end Unfinished

/-! ## The end of a frame of its own -/

section Frame

variable {s : State} {a : Access} {t : Transfer}

theorem closeRow_frame (hreset : s.port.softReset = false) : s.closeRow true = s.closeFrame [] :=
  if_pos (by simp [hreset])

theorem bitsCount_nil (s : State) : s.bitsCount [] = false := rfl

theorem emit_emit (s : State) (n : Nat) :
    (s.emit [.highZ]).emit (List.replicate n .highZ) = s.emit (List.replicate (n + 1) .highZ) := by
  simp [State.emit, State.setPort, List.replicate_succ]

/-- R147: the loop length has cut the field, and the frame ends behind that byte. -/
theorem closeRow_cutField (htaken : a.taken = true) (hclear : a.duringClear = false)
    (hreset : s.port.softReset = false) :
    (s.cutField a).closeRow true = fieldCutOff (frameEnded s false (loopLeft s a)) true := by
  have hphase : (s.cutField a).port.phase = .data (withTransfer a none) := rfl
  have huncut : (s.cutField a).fieldCut = false := by
    rw [State.fieldCut, hphase]
    exact Bool.and_false _
  have hnoReset : (s.cutField a).port.softReset = false := by
    rw [cutField_eq htaken]
    exact hreset
  rw [closeRow_frame hnoReset, closeFrame_uncut hnoReset (a := withTransfer a none) (by rw [hphase]; rfl) huncut,
    bitsCount_nil, cutField_eq htaken, hclear]
  rfl

/-- R145, R147: CSN rises inside the field, or the loop length has cut it at the last byte of the run. -/
theorem closeRow_unfinished (bytes : List Byte) (hphase : s.port.phase = .data a) (htaken : a.taken = true)
    (hwrite : a.isRead = false) (hshared : a.sharedOnly = false) (hclear : a.duringClear = false)
    (hreset : s.port.softReset = false) (ht : a.transfer = some t) (hleft : bytes.length < t.left)
    (hloop : NoLoopWithin a bytes.length) :
    (bytes.foldl State.clockByte s).closeRow true =
      fieldCutOff (frameEnded (s.emit (List.replicate bytes.length .highZ)) false (loopLeft s a)) true := by
  induction bytes generalizing s a t with
  | nil =>
    have hcut : s.fieldCut = true := by
      rw [State.fieldCut, hphase]
      simp [htaken, hclear, ht]
    have hemit : s.emit [] = s := by simp [State.emit, State.setPort]
    change s.closeRow true = fieldCutOff (frameEnded (s.emit []) false (loopLeft s a)) true
    rw [closeRow_frame hreset, closeFrame_access hreset (a := a) (by rw [hphase]; rfl), hcut, hemit]
    rfl
  | cons b rest ih =>
    rw [List.length_cons] at hleft hloop
    have hout : dataOut a t = .highZ := by rw [dataOut, hwrite]; rfl
    have hbyte : s.clockByte b = s.transferByte a t b :=
      (clockByte_data hphase b).trans (dataByte_some (by simp [hshared]) ht)
    by_cases hloops : Loops a
    · have hone : rest = [] := List.length_eq_zero_iff.1 (by
        by_contra hmore
        exact not_loops hloop (by omega) hloops)
      subst hone
      rw [List.foldl_cons, hbyte, transferByte_cut (by omega) hloops, hout]
      exact closeRow_cutField (s := s.emit [.highZ]) (a := withTransfer a.advance none) htaken hclear hreset
    · rw [List.foldl_cons, hbyte, transferByte_inside (by omega) hloops, hout]
      refine (ih (s := (s.emit [.highZ]).setPhase (.data (withTransfer a.advance (some (t.cross a.isRead b)))))
        (a := withTransfer a.advance (some (t.cross a.isRead b))) rfl htaken hwrite hshared hclear hreset rfl
        (show rest.length < t.left - 1 by omega) (noLoopWithin_advance hloop _)).trans ?_
      have hemit := congrArg (fun u => fieldCutOff (frameEnded u false (loopLeft s a)) true) (emit_emit s rest.length)
      exact hemit

end Frame

end Sys2Proof.Proofs.PartOfField
end

section
/-! PROOFS. The row REGISTER_WRITE (spec/09 R134, R144, R145, R147, R150, R151): a run in a frame of its own that is part of a field, a run in an access in progress, and the whole statement. -/

namespace Sys2Proof.Proofs.RunsOfBytes

open Sys2Proof.Machine Sys2Proof.Laws
open Sys2Proof.Proofs.RegisterWrites Sys2Proof.Proofs.WholeFieldWrites
open Sys2Proof.Proofs.ReceiverBytes (bytes16_join16)
open Sys2Proof.Proofs.PortBytes Sys2Proof.Proofs.FrameEnd
open Sys2Proof.Proofs.PartialWrites Sys2Proof.Proofs.PartOfField

/-! ## A frame of its own -/

/-- The access that a write in a frame of its own begins. -/
def ownAccess (s : State) (start : HostAddr) : Access :=
  { taken := true, isRead := false, sharedOnly := false, start := start, addr := start, count := 0
    mode := s.port.config.mode, direction := s.port.config.direction, loop := s.port.loopLength.toNat
    keepLoop := s.port.config.keepLoop, duringClear := s.accessInClear, loopWritten := false, alone := false
    transfer := none }

/-- The transfer of a field that a write has entered at an address, as it begins. -/
def writeTransfer (s : State) (start : HostAddr) : Transfer :=
  { field := fieldAt start, middle := (ownAccess s start).inMiddle
    lowest := lowestOf (fieldAt start) s.port.config.direction start
    left := bytesToEnd (fieldAt start) s.port.config.direction start, latch := [], crossed := [] }

section Own

variable {s : State} {start : HostAddr}

theorem rowAccess_idle (hidle : s.port.phase = .idle) : s.rowAccess false start = ownAccess s start := by
  rw [State.rowAccess, hidle]
  rfl

theorem rowDirection_idle (hidle : s.port.phase = .idle) : s.rowDirection = s.port.config.direction := by
  rw [State.rowDirection, hidle]

theorem frameCrc_rowPort_idle (hidle : s.port.phase = .idle) : (s.rowPort false start).frameCrc = s.port.crcOn := by
  rw [State.rowPort, hidle]

theorem noSoftReset_of_admitsAt (hadmits : s.admitsAt start false = true) : s.port.softReset = false := by
  rw [State.admitsAt, Bool.and_eq_true, Bool.and_eq_true, Bool.not_eq_true', Bool.not_eq_true'] at hadmits
  exact hadmits.1.2

/-- Outside the start-up clear the frame opens without a flag. -/
theorem openRow_own (hidle : s.port.phase = .idle) (hadmits : s.admitsAt start false = true)
    (hclear : s.accessInClear = false) :
    s.openRow false start =
      stand s (.data (ownAccess s start)) (s.rowPort false start).sdo (s.rowPort false start).frameCrc := by
  have hflag : openFlag s false start = false := by rw [openFlag, hidle, hclear]; rfl
  rw [openRow_eq s hadmits, rowAccess_idle hidle, hflag]
  rfl

/-- R144, R145: the start of a write's field sets PARTIAL FIELD where it is not the first byte. -/
theorem startEffects_write_known {a : Access} (htaken : a.taken = true) (hwrite : a.isRead = false)
    (hclear : a.duringClear = false) (hknown : (fieldAt a.addr).isUnknown = false) :
    s.startEffects a = s.flagIf a.inMiddle .partialField := by
  simp [State.startEffects, htaken, hwrite, hclear, hknown, State.flagIf]

/-- The port stands in the field that the frame's access has entered. -/
theorem fieldBegun_own (hclear : s.accessInClear = false) (hknown : (fieldAt start).isUnknown = false)
    (ph : PortPhase) (sd : List Sdo) (fc : Bool) :
    fieldBegun (stand s ph sd fc) (ownAccess s start) =
      stand (s.flagIf (ownAccess s start).inMiddle .partialField)
        (.data (withTransfer (ownAccess s start) (some (writeTransfer s start)))) sd fc := by
  have hstart : (stand s ph sd fc).startEffects (ownAccess s start) =
      stand (s.flagIf (ownAccess s start).inMiddle .partialField) ph sd fc :=
    (startEffects_write_known rfl rfl hclear hknown).trans (flagIf_stand s ph sd fc _ _)
  rw [fieldBegun, hstart]
  rfl

end Own

/-! ## The state behind a run in a frame of its own -/

/-- R145, R147, R151: what a run that is part of a field leaves, `last` where its last byte is the field's. -/
def partRunEnded (s : State) (p : HostPort) (n : Nat) (f : Field) (last bad : Bool) : State :=
  { s with
    take := if last then s.take else none
    line := { s.line with damagedLatch := if last then s.line.damagedLatch else none }
    port := { p with
      phase := .idle
      loopLength := if s.port.config.keepLoop then s.port.loopLength else 0
      sdo := p.sdo ++ List.replicate n .highZ
      errors := { s.port.errors with
        partialField := true
        readOnlyWrite := s.port.errors.readOnlyWrite || (last && f.readOnly)
        crcMismatch := s.port.errors.crcMismatch || bad } } }

section PartRuns

variable {s : State} {start : HostAddr} {sdi : List Byte}

/-- R147: the loop length at the end of the frame. -/
theorem loopLeft_own (u : State) (hloop : u.port.loopLength = s.port.loopLength) (t : Option Transfer) :
    loopLeft u (withTransfer (ownAccess s start) t) = if s.port.config.keepLoop then s.port.loopLength else 0 := by
  rw [loopLeft, hloop]
  cases hkeep : s.port.config.keepLoop <;> simp [withTransfer, ownAccess, hkeep]

/-- The frame with the field of its access begun. -/
def ownBegun (s : State) (start : HostAddr) : State :=
  stand (s.flagIf (ownAccess s start).inMiddle .partialField)
    (.data (withTransfer (ownAccess s start) (some (writeTransfer s start))))
    (s.rowPort false start).sdo (s.rowPort false start).frameCrc

theorem hostWrite_own (hidle : s.port.phase = .idle) (hadmits : s.admitsAt start false = true)
    (hclear : s.accessInClear = false) (hknown : (fieldAt start).isUnknown = false) (hsdi : sdi ≠ [])
    (crc : Option Byte) :
    s.hostWrite start sdi crc = (sdi.foldl (State.clockFieldByte crc) (ownBegun s start)).closeRow true := by
  have hbytes := (foldl_fieldBegun (s := stand s (.data (ownAccess s start)) (s.rowPort false start).sdo
    (s.rowPort false start).frameCrc) (a := ownAccess s start) rfl rfl nofun crc hsdi).1
  rw [State.hostWrite, if_pos hadmits, openRow_own hidle hadmits hclear, hbytes, fieldBegun_own hclear hknown, hidle]
  rfl

theorem port_flagIf (s : State) (c : Bool) (f : ErrorFlag) :
    (s.flagIf c f).port.loopLength = s.port.loopLength ∧ (s.flagIf c f).port.softReset = s.port.softReset := by
  cases c <;> exact ⟨rfl, rfl⟩

/-- R145: the frame ends inside the field. -/
theorem fieldCutOff_own (ph : PortPhase) (middle : Bool) (n : Nat) (f : Field) :
    fieldCutOff
      (frameEnded ((stand (s.flagIf middle .partialField) ph (s.rowPort false start).sdo
        (s.rowPort false start).frameCrc).emit (List.replicate n .highZ)) false
        (if s.port.config.keepLoop then s.port.loopLength else 0)) true =
      partRunEnded s (s.rowPort false start) n f false false := by
  rw [flagIf_partialField, partRunEnded, rowPort_spec s false start, Bool.false_and, Bool.or_false, Bool.or_false,
    fieldCutOff, frameEnded, Bool.or_true, Bool.or_false]
  rfl

/-- R145: a run in a frame of its own that stops inside its field. -/
theorem hostWrite_stops (hidle : s.port.phase = .idle) (hadmits : s.admitsAt start false = true)
    (hclear : s.accessInClear = false) (hknown : (fieldAt start).isUnknown = false) (hsdi : sdi ≠ [])
    (huncut : (ownAccess s start).uncut sdi.length = true)
    (hleft : sdi.length < bytesToEnd (fieldAt start) s.port.config.direction start) (crc : Option Byte) :
    s.hostWrite start sdi crc =
      partRunEnded s (s.rowPort false start) sdi.length (fieldAt start) false false := by
  obtain ⟨hloop, hreset⟩ := port_flagIf s (ownAccess s start).inMiddle .partialField
  have hwithin : NoLoopWithin (withTransfer (ownAccess s start) (some (writeTransfer s start))) sdi.length :=
    fun k hpos hless => uncut_spec huncut hpos hless
  rw [hostWrite_own hidle hadmits hclear hknown hsdi,
    foldl_unfinished (s := ownBegun s start) crc sdi rfl rfl rfl hleft hwithin,
    closeRow_unfinished (s := ownBegun s start) sdi rfl rfl rfl rfl hclear
      (hreset.trans (noSoftReset_of_admitsAt hadmits)) rfl hleft hwithin,
    loopLeft_own (ownBegun s start) hloop]
  exact fieldCutOff_own _ _ sdi.length (fieldAt start)

/-- R151: the CRC byte behind the last byte of the field fails. -/
def crcFails (s : State) (start : HostAddr) (sdi : List Byte) (crc : Byte) : Bool :=
  s.port.crcOn && crc8 ((lowestOf (fieldAt start) s.port.config.direction start).setWidth 8) sdi != crc

/-- The frame's access behind some data bytes. -/
def ownBehind (s : State) (start : HostAddr) (n : Nat) : Access :=
  { ownAccess s start with count := 0 + n, addr := (advanceBy n (ownAccess s start)).addr }

theorem foldl_ends (hsdi : sdi ≠ []) (huncut : (ownAccess s start).uncut sdi.length = true)
    (hleft : bytesToEnd (fieldAt start) s.port.config.direction start = sdi.length) (crc : Option Byte) :
    sdi.foldl (State.clockFieldByte crc) (ownBegun s start) =
      endWrite crc ((ownBegun s start).emit (List.replicate sdi.length .highZ)) (ownBehind s start sdi.length)
        { writeTransfer s start with left := 0, crossed := sdi } := by
  have hrun := run_write crc sdi (ownBegun s start)
    (withTransfer (ownAccess s start) (some (writeTransfer s start))) (writeTransfer s start) hsdi rfl rfl rfl hleft
    nofun (fun k hpos hless => uncut_spec huncut hpos hless) rfl
  rw [advanceBy_withTransfer, advanceBy_eq, show (writeTransfer s start).latch = [] from rfl, List.drop_nil] at hrun
  exact hrun

/-- A field that is not applied is left behind. -/
theorem applyAndGoOn_unapplied {a : Access} {t : Transfer} (happlies : a.applies t = false) (u : State) :
    u.applyAndGoOn a t = u.afterField a := by
  rw [State.applyAndGoOn, State.applyTransfer, Access.noteApplied, happlies]
  simp

/-- R145, R151: the end of a field that a write has entered in the middle. -/
theorem endWrite_unapplied {a : Access} {t : Transfer} (htaken : a.taken = true) (hwrite : a.isRead = false)
    (hclear : a.duringClear = false) (hwrites : a.writesPair = false) (hpair : t.field ≠ .crcEnablePair)
    (happlies : a.applies t = false) (v : State) (ph : PortPhase) (sd : List Sdo) (fc : Bool) (crc : Byte) :
    endWrite (some crc) (stand v ph sd fc) a t =
      (stand ((v.flagIf t.field.readOnly .readOnlyWrite).flagIf (fc && t.crc != crc) .crcMismatch) ph
        (sd ++ List.replicate (if fc then 1 else 0) .highZ) fc).afterField a := by
  have hlast : (stand v ph sd fc).lastByte a t = stand (v.flagIf t.field.readOnly .readOnlyWrite) ph sd fc := by
    rw [lastByte_write _ a t hwrite, htaken, hclear, hwrites, beq_eq_false_iff_ne.2 hpair, flagIf_stand]
    simp
  rw [endWrite, hlast, hwrites, stand_frameCrc, Bool.not_false, Bool.and_true, applyAndGoOn_unapplied happlies,
    applyAndGoOn_unapplied happlies, htaken, Option.getD_some]
  cases fc with
  | false => exact congrArg (fun sent => (stand _ ph sent false).afterField a) (List.append_nil sd).symm
  | true =>
    by_cases hcrc : t.crc = crc
    · rw [if_pos rfl, hcrc, if_pos rfl, bne_self_eq_false]
      rfl
    · rw [if_pos rfl, if_neg hcrc, bne_iff_ne.2 hcrc]
      rfl

/-- R143, R147: the frame ends behind a field. -/
theorem closeRow_afterField {w : State} (hreset : w.port.softReset = false) {a : Access} (htaken : a.taken = true)
    (hnone : a.transfer = none) (hwritten : a.loopWritten = false) (ph : PortPhase) (sd : List Sdo) (fc : Bool) :
    ((stand w ph sd fc).afterField a).closeRow true =
      { w with port := { w.port with
        phase := .idle, loopLength := if a.keepLoop then w.port.loopLength else 0, sdo := sd, frameCrc := fc } } := by
  have hleft : (!a.taken || a.keepLoop || a.loopWritten) = a.keepLoop := by
    rw [htaken, hwritten, Bool.not_true, Bool.false_or, Bool.or_false]
  have hbehind : (stand w ph sd fc).portBehind a true = { w.port with
      phase := .idle, loopLength := if a.keepLoop then w.port.loopLength else 0, sdo := sd, frameCrc := fc } := by
    rw [State.portBehind, hleft]
    exact if_neg (show ¬ w.port.softReset = true by simp [hreset])
  rw [afterField_eq, ← hbehind]
  exact closeRow_eq (w := w) (u := stand w ph sd fc) htaken hnone rfl true

theorem sent_append (n m : Nat) (sd : List Sdo) :
    sd ++ List.replicate n .highZ ++ List.replicate m .highZ = sd ++ List.replicate (n + m) .highZ := by
  rw [List.append_assoc, List.replicate_append_replicate]

theorem flagIf_crcMismatch (s : State) (c : Bool) : s.flagIf c .crcMismatch =
    { s with port := { s.port with errors :=
      { s.port.errors with crcMismatch := s.port.errors.crcMismatch || c } } } := by
  cases c <;> simp [State.flagIf, State.flag, ErrorFlags.set]

/-- R145, R151: a run in a frame of its own that enters its field in the middle and reaches its last byte. -/
theorem hostWrite_ends (hidle : s.port.phase = .idle) (hadmits : s.admitsAt start false = true)
    (hclear : s.accessInClear = false) (hknown : (fieldAt start).isUnknown = false)
    (hpair : fieldAt start ≠ .crcEnablePair) (hsdi : sdi ≠ [])
    (huncut : (ownAccess s start).uncut sdi.length = true)
    (hleft : bytesToEnd (fieldAt start) s.port.config.direction start = sdi.length)
    (hmiddle : (ownAccess s start).inMiddle = true) (crc : Byte) :
    s.hostWrite start sdi (some crc) =
      partRunEnded s (s.rowPort false start) (sdi.length + if s.port.crcOn then 1 else 0) (fieldAt start) true
        (crcFails s start sdi crc) := by
  have hwrites : (ownBehind s start sdi.length).writesPair = false := by
    refine beq_eq_false_iff_ne.2 fun heq => hpair ?_
    change start = 0x0002 at heq
    rw [heq]
    decide
  have happlies : (ownBehind s start sdi.length).applies
      { writeTransfer s start with left := 0, crossed := sdi } = false := by
    change (_ && !(ownAccess s start).inMiddle) = false
    rw [hmiddle, Bool.not_true, Bool.and_false]
  have hflagged : (((s.flagIf true .partialField).flagIf (fieldAt start).readOnly .readOnlyWrite).flagIf
      (crcFails s start sdi crc) .crcMismatch) =
      { s with port := { s.port with errors := { s.port.errors with
        partialField := true
        readOnlyWrite := s.port.errors.readOnlyWrite || (fieldAt start).readOnly
        crcMismatch := s.port.errors.crcMismatch || crcFails s start sdi crc } } } := by
    rw [flagIf_crcMismatch, flagIf_readOnlyWrite, flagIf_partialField, Bool.or_true]
  have hended := endWrite_unapplied (a := ownBehind s start sdi.length)
    (t := { writeTransfer s start with left := 0, crossed := sdi }) rfl rfl hclear hwrites hpair happlies
    (s.flagIf true .partialField) (.data (withTransfer (ownAccess s start) (some (writeTransfer s start))))
    ((s.rowPort false start).sdo ++ List.replicate sdi.length .highZ) s.port.crcOn crc
  rw [hostWrite_own hidle hadmits hclear hknown hsdi, foldl_ends hsdi huncut hleft, ownBegun, hmiddle, stand_emit,
    frameCrc_rowPort_idle hidle, hended, sent_append]
  refine (closeRow_afterField (w := ((s.flagIf true .partialField).flagIf (fieldAt start).readOnly
    .readOnlyWrite).flagIf (crcFails s start sdi crc) .crcMismatch) ?_ rfl rfl rfl _ _ _).trans ?_
  · rw [hflagged]
    exact noSoftReset_of_admitsAt hadmits
  · rw [hflagged, partRunEnded, rowPort_spec s false start, frameCrc_rowPort_idle hidle]
    rfl

/-- R145, R147, R151: a run in a frame of its own that is part of a field. -/
theorem exec_partRun {address : HostAddr} {bytes : List Byte} (hidle : s.port.phase = .idle)
    (hadmits : s.admitsAt (runStart s.rowDirection address bytes.length) false = true)
    (hclear : s.accessInClear = false)
    (huncut : (s.rowAccess false (runStart s.rowDirection address bytes.length)).uncut bytes.length = true)
    (hrun : PartRun address bytes.length) (crc : Byte) :
    exec (.registerWrite address bytes crc) s =
      .next (partRunEnded s (s.rowPort false (runStart s.rowDirection address bytes.length))
        (bytes.length + if reachesEnd s.rowDirection address bytes.length && s.port.crcOn then 1 else 0)
        (fieldAt address) (reachesEnd s.rowDirection address bytes.length)
        ((reachesEnd s.rowDirection address bytes.length && s.port.crcOn)
          && crc8 (address.setWidth 8) (orient s.rowDirection bytes) != crc)) := by
  have hfield := hrun.fieldAt_runStart (d := s.rowDirection)
  have hleft := hrun.bytesToEnd_runStart (d := s.rowDirection)
  have hnonempty := hrun.nonempty
  have hlength := orient_length s.rowDirection bytes
  have hsdi : orient s.rowDirection bytes ≠ [] := List.length_pos_iff.1 (by omega)
  rw [rowAccess_idle hidle] at huncut
  obtain ⟨hknown, hpair⟩ := hrun.known
  rw [← hfield] at hleft hknown hpair
  refine congrArg Host.Outcome.next ?_
  cases hlast : reachesEnd s.rowDirection address bytes.length with
  | false =>
    rw [hlast, if_neg Bool.false_ne_true] at hleft
    rw [hostWrite_stops hidle hadmits hclear hknown hsdi (by rwa [hlength])
      (by rwa [hlength, ← rowDirection_idle hidle]), hlength, hfield]
    rfl
  | true =>
    rw [hlast, if_pos rfl] at hleft
    have hmiddle : (ownAccess s (runStart s.rowDirection address bytes.length)).inMiddle = true := by
      rw [Access.inMiddle, bne_iff_ne]
      change _ ≠ (fieldAt (runStart s.rowDirection address bytes.length)).first s.port.config.direction
      rw [hfield, ← rowDirection_idle hidle]
      exact hrun.runStart_ne_first hlast
    rw [hostWrite_ends hidle hadmits hclear hknown hpair hsdi (by rwa [hlength])
      (by rwa [hlength, ← rowDirection_idle hidle]) hmiddle, crcFails, hfield, ← rowDirection_idle hidle,
      lowestOf_runStart hlast, hlength]
    rfl

end PartRuns

/-! ## An access in progress -/

section InProgress

variable {s : State} {a : Access} {start : HostAddr} {sdi : List Byte}

theorem access_of_admitsAt (hphase : s.port.phase = .data a) (hadmits : s.admitsAt start false = true) :
    a.taken = true ∧ a.transfer = none ∧ a.addr = start := by
  rw [State.admitsAt, hphase] at hadmits
  simp only [Bool.and_eq_true, Option.isNone_iff_eq_none, beq_iff_eq] at hadmits
  obtain ⟨-, ⟨⟨htaken, -⟩, hnone⟩, haddr⟩ := hadmits
  exact ⟨htaken, hnone, haddr⟩

/-- R144: the bytes go on with the access, and its frame stays open. -/
theorem hostWrite_inProgress (hphase : s.port.phase = .data a) (hadmits : s.admitsAt start false = true)
    (crc : Option Byte) : s.hostWrite start sdi crc = sdi.foldl (State.clockFieldByte crc) s := by
  rw [State.hostWrite, if_pos hadmits, State.openRow, hphase]
  rfl

theorem exec_instructionPhase_inProgress (hphase : s.port.phase = .data a) (sdi : List Byte) :
    exec (.instructionPhase sdi) s = .next (sdi.foldl State.clockByte s) := by
  change Host.Outcome.next (sdi.foldl State.clockByte s.openFrame) = _
  rw [openFrame_open (by simp [hphase])]

/-- The run is its bytes on SDI where no CRC byte is added to them. -/
theorem exec_run_inProgress {address : HostAddr} {bytes : List Byte} {crc : Byte} (hphase : s.port.phase = .data a)
    (hadmits : s.admitsAt (runStart s.rowDirection address bytes.length) false = true)
    (hbytes : (orient s.rowDirection bytes).foldl (State.clockFieldByte (some crc)) s =
      (orient s.rowDirection bytes).foldl State.clockByte s) :
    exec (.registerWrite address bytes crc) s = exec (.instructionPhase (orient s.rowDirection bytes)) s := by
  rw [exec_instructionPhase_inProgress hphase, ← hbytes, ← hostWrite_inProgress hphase hadmits]
  rfl

/-- R145: a run that stops inside its field. -/
theorem exec_partRun_inProgress {address : HostAddr} {bytes : List Byte} (hphase : s.port.phase = .data a)
    (hadmits : s.admitsAt (runStart s.rowDirection address bytes.length) false = true)
    (huncut : (s.rowAccess false (runStart s.rowDirection address bytes.length)).uncut bytes.length = true)
    (hrun : PartRun address bytes.length) (hlast : reachesEnd s.rowDirection address bytes.length = false)
    (crc : Byte) :
    exec (.registerWrite address bytes crc) s = exec (.instructionPhase (orient s.rowDirection bytes)) s := by
  obtain ⟨htaken, hnone, haddr⟩ := access_of_admitsAt hphase hadmits
  have hdirection : s.rowDirection = a.direction := by rw [State.rowDirection, hphase]
  have haccess : s.rowAccess false (runStart s.rowDirection address bytes.length) = a := by
    rw [State.rowAccess, hphase]
  have hlength := orient_length s.rowDirection bytes
  have hleft := hrun.bytesToEnd_runStart (d := s.rowDirection)
  rw [hlast, if_neg Bool.false_ne_true, ← hrun.fieldAt_runStart (d := s.rowDirection), ← haddr, hdirection] at hleft
  rw [haccess] at huncut
  refine exec_run_inProgress hphase hadmits (foldl_stopsInside (some crc) ?_ hphase htaken hnone ?_ ?_)
  · exact List.length_pos_iff.1 (hlength.symm ▸ hrun.nonempty)
  · rwa [hlength]
  · rw [hlength]
    exact fun k hpos hless => uncut_spec huncut hpos hless

end InProgress

/-- Settles O45: a whole field by what the row of its field does, a part of one by where it stops, and a run in an access in progress byte by byte. -/
theorem registerWriteIsJudged : Obligations.RegisterWriteIsJudged := by
  intro s address bytes crc row f length e sdi flagged
  refine ⟨fun hready hbase hlength => ?_, ?_, ?_⟩
  · intro crcGood w isRow
    have hclear : s.accessInClear = false := hready.2
    have hgood {t : State} (h : crcGood) (ht : rowEffect s f bytes = t) : Leads s row t :=
      ht ▸ leads_registerWrite hready hbase hlength h
    have hbad {t : State} (h : ¬ crcGood) (ht : rowFlags s f = t) : TurnedAway s row (t.flag .crcMismatch) :=
      ht ▸ turnedAway_registerWrite hready hbase hlength h
    have hat {a : HostAddr} {g : Field} (haddress : address = a) (hg : fieldAt a = g) : f = g :=
      (congrArg fieldAt haddress).trans hg
    have hown {g : Field} {own : Instr} (hcrc : crcGood) (hg : f = g)
        (h : exec own s = .next (s.writeField g bytes)) : isRow own :=
      exec_registerWrite_own hready.1 hbase hlength hcrc hg h
    refine ⟨fun hreadOnly => ⟨fun hcrc => hgood hcrc (rowEffect_readOnly hclear hreadOnly),
        fun hcrc => hbad hcrc (rowFlags_readOnly hclear hreadOnly)⟩,
      fun hunknown => ⟨fun hcrc => hgood (t := s.flag .unknownAddress) hcrc ?_,
        fun hcrc => hbad (t := s.flag .unknownAddress) hcrc ?_⟩,
      fun hpair hcrc => hbad (t := s.flag .readOnlyWrite) hcrc ?_,
      fun hreadOnly hunknown hpair hcrc => hbad (t := s) hcrc ?_,
      fun hcrc haddress hbusy => ?_, fun hcrc hidle => ?_, fun b hb => ?_, fun hcrc lo hi hb => ?_⟩
    · exact (congrArg (rowEffect s · bytes) hunknown).trans (rowEffect_unknown hclear address)
    · exact (congrArg (rowFlags s) hunknown).trans (rowFlags_unknown hclear address)
    · have hstart : s.startsAtPair = false :=
        startsAtPair_of_bad fun h => hcrc ((congrArg (s.fieldCrcMatches · bytes crc) hpair).trans h)
      exact (congrArg (rowFlags s) hpair).trans (rowFlags_pair hclear hstart)
    · exact rowFlags_plain hclear ((isUnknown_fieldAt address).trans (beq_eq_false_iff_ne.2 hunknown)) hreadOnly hpair
    · have hf : f ∈ guardedFields := guardedField_of_address hbase haddress
      have hleads : Leads s row (s.applyField f bytes) := leads_guarded hready hbase hlength hcrc hf
      rwa [applyField_guarded_busy hf hbusy] at hleads
    · intro leads
      have hargument {a : HostAddr} {g : Field} {c : CommandUnit} (haddress : address = a) (hg : fieldAt a = g)
          (hguarded : g ∈ guardedFields) (hc : s.applyField g bytes = s.writeGuarded c) : leads c :=
        leads_argument hready hbase hlength hcrc hidle (hat haddress hg) hguarded hc
      refine ⟨fun b0 b1 b2 b3 haddress hb => ?_, fun b0 b1 b2 b3 b4 b5 b6 b7 haddress hb => ?_,
        fun lo hi hb => ⟨fun haddress => ?_, fun haddress => ?_⟩,
        fun b hb => ⟨fun haddress => ?_, fun haddress => ?_, fun haddress => ?_, fun haddress => ?_⟩⟩
      · exact hargument (g := .commandArgument) haddress (by decide) (by decide) (hb ▸ rfl)
      · exact hargument (g := .windowIdentity) haddress (by decide) (by decide) (hb ▸ rfl)
      · exact hargument (g := .windowFirst) haddress (by decide) (by decide) (hb ▸ rfl)
      · exact hargument (g := .windowSecond) haddress (by decide) (by decide) (hb ▸ rfl)
      · exact hargument (g := .windowSelect) haddress (by decide) (by decide) (hb ▸ rfl)
      · exact hargument (g := .windowGroup) haddress (by decide) (by decide) (hb ▸ rfl)
      · exact hargument (g := .windowPermit) haddress (by decide) (by decide) (hb ▸ rfl)
      · exact hargument (g := .windowDemand) haddress (by decide) (by decide) (hb ▸ rfl)
    · refine ⟨fun haddress hcrc => hown (g := .crcEnablePair) hcrc (hat haddress (by decide)) (hb ▸ rfl),
        fun hcrc => ⟨fun haddress _ => ?_, fun haddress h6 h7 => ?_, fun haddress => ?_, fun haddress => ?_,
          fun haddress => ?_, fun haddress => ?_, fun haddress => ?_, fun haddress => ?_⟩⟩
      · exact hown (g := .interfaceControl) hcrc (hat haddress (by decide)) (hb ▸ rfl)
      · refine hown (g := .interfaceControl) hcrc (hat haddress (by decide)) ?_
        change Host.Outcome.next (s.writeField .interfaceControl [b ||| 0xC0]) = _
        rw [withMarks_eq h6 h7, hb]
      · exact hown (g := .loopLength) hcrc (hat haddress (by decide)) (hb ▸ rfl)
      · exact hown (g := .cycleControl) hcrc (hat haddress (by decide)) (hb ▸ rfl)
      · exact hown (g := .cyclePeriod) hcrc (hat haddress (by decide)) (hb ▸ rfl)
      · exact hown (g := .lineRate) hcrc (hat haddress (by decide)) (hb ▸ rfl)
      · exact hown (g := .answerGap) hcrc (hat haddress (by decide)) (hb ▸ rfl)
      · have hcode : f = .commandCode := hat haddress (by decide)
        refine ⟨fun code own hlist hcode' => hown hcrc hcode ?_, fun _ => hown hcrc hcode (hb ▸ rfl)⟩
        rw [hb, hcode']
        exact exec_command_own hlist s
    · have hword : bytes = bytes16 (hi ++ lo) := hb.trans (bytes16_join16 lo hi).symm
      refine ⟨fun haddress => ?_, fun haddress => ?_, fun haddress => ?_, fun haddress => ?_⟩
      · exact hown (g := .errorFlags) hcrc (hat haddress (by decide)) (hword ▸ rfl)
      · exact hown (g := .eventRegister) hcrc (hat haddress (by decide)) (hword ▸ rfl)
      · exact hown (g := .eventMask) hcrc (hat haddress (by decide)) (hword ▸ rfl)
      · exact hown (g := .answerRange) hcrc (hat haddress (by decide)) (hb ▸ rfl)
  · intro start last hadmits hclear huncut hbytes hinside hpart
    have hrun : PartRun address bytes.length := ⟨List.length_pos_iff.2 hbytes, hinside, hpart⟩
    exact ⟨fun hidle => exec_partRun hidle hadmits hclear huncut hrun crc,
      fun a hphase hlast => exec_partRun_inProgress hphase hadmits huncut hrun hlast crc⟩
  · intro a hphase hcrcOff hadmits
    exact exec_run_inProgress hphase hadmits
      (foldl_withoutCrc (some crc) _ ⟨hcrcOff, fun b t => hphase ▸ data_ne_fieldCrc a b t⟩)

end Sys2Proof.Proofs.RunsOfBytes
end
